-- ==== Sys2Proof/Word.lean ====
section
/-! DEFINITION. The words and bytes of 00_scope.md rule R11. -/

namespace Sys2Proof

/-- A word: an unsigned integer 0..2^32-1 (R11). -/
abbrev Word := BitVec 32

/-- A byte: an unsigned integer 0..255 (R11, D15). -/
abbrev Byte := BitVec 8

end Sys2Proof
end

