-- ==== Sys2Proof/Config.lean ====
section
/-! DEFINITION. What an implementation or the platform fixes (00_scope.md rules R5 to R10), and the free values. -/

namespace Sys2Proof

/-- The entropy pool: exactly four 32-bit words (R26). -/
structure Pool where
  w0 : Word
  w1 : Word
  w2 : Word
  w3 : Word
deriving DecidableEq, Repr, Inhabited

/-- SCRAMBLE_FORM, the reading of the scramble formula (R6). -/
inductive ScrambleForm where
  | rotate
  | shift
deriving DecidableEq, Repr

/-- The parameters that are plain data (R5, R6, R7, R10). -/
structure Config where
  /-- BMEM_SIZE, the number of bytes of BMEM (R5) -/
  bmemSize : Nat
  /-- SCRAMBLE_FORM (R6) -/
  scrambleForm : ScrambleForm
  /-- POOL_INIT, the reset value of POOL (R7) -/
  poolInit : Pool
  /-- REG_BASE, the system address of the REG space (R10) -/
  regBase : Nat
  /-- BMEM_BASE, the system address of the BMEM space (R10) -/
  bmemBase : Nat
deriving DecidableEq, Repr

namespace Config

/-- The parameter function pool_mix (R8, D22), without a formula. -/
opaque poolMix : Pool → Word → Word → Pool

/-- The k-th WeakDraw that no test source supplied (R9, R92, D20): any value. -/
opaque weakDraw : Nat → Word

/-- The k-th Jitter that no test source supplied (R9, R95, D22): any value. -/
opaque jitter : Nat → Word

/-- How often the host moves while the k-th command runs, before the engine's step: any number, but a number,
so that the step is weakly fair (R65, R117). DESIGN CHOICE (log 4): the spec fixes no order. -/
opaque headStart : Nat → Nat

/-- Raw material of POOL_INIT (R7): DOC says only "fixed non-zero constants". -/
opaque poolInitWord : Nat → Word

/-- REG_BASE of the platform (R10): any address. -/
opaque platformRegBase : Nat

/-- BMEM_BASE of the platform (R10): any address. -/
opaque platformBmemBase : Nat

/-- A word that is not zero and otherwise free: w itself unless w is 0. -/
def nonZero (w : Word) : Word := if w = 0 then 1 else w

/-- Four non-zero words of no known value (R7). -/
def freePoolInit : Pool :=
  ⟨nonZero (poolInitWord 0), nonZero (poolInitWord 1), nonZero (poolInitWord 2), nonZero (poolInitWord 3)⟩

/-- The spec's defaults (R5: 65536, R6: ROTATE); the parameters without a default stay open. -/
def default : Config where
  bmemSize := 65536
  scrambleForm := .rotate
  poolInit := freePoolInit
  regBase := platformRegBase
  bmemBase := platformBmemBase

end Config

end Sys2Proof
end

