-- ==== Sys2Proof/Syntax.lean ====
section
/-! DEFINITION. The commands: one constructor per row of the opcode table (30_encoding.md rule R55).
No command word holds an operand (R54), so no constructor has a field. -/

namespace Sys2Proof

inductive Instr where
  /-- 0x00, R72 -/
  | nop
  /-- 0x01, R75 -/
  | mask
  /-- 0x02, R78; OBFUSCATE is an alias of the same word -/
  | scramble
  /-- 0x03, R80 -/
  | deobfuscate
  /-- 0x04, R83 -/
  | checksum
  /-- 0x05, R88 -/
  | shuffle
  /-- 0x06, R89 -/
  | unshuffle
  /-- 0x07, R93 -/
  | entDraw
  /-- 0x08, R94 -/
  | entFill
  /-- 0x09, R95 -/
  | entSeed
deriving DecidableEq, Repr

end Sys2Proof
end

