-- ==== Sys2Proof/WellFormed.lean ====
section
/-! DEFINITION. Which instructions and configurations the spec admits. -/

namespace Sys2Proof

/-- Every command is well formed: it has no operand to check (R54). -/
def Instr.wellFormed : Instr → Bool
  | .nop | .mask | .scramble | .deobfuscate | .checksum | .shuffle | .unshuffle | .entDraw | .entFill | .entSeed => true

namespace Config

/-- 1 <= BMEM_SIZE <= 2^31 (R5). -/
def sizeOk (c : Config) : Bool := 1 ≤ c.bmemSize && c.bmemSize ≤ 2 ^ 31

/-- Every word of POOL_INIT is non-zero (R7). -/
def poolInitOk (c : Config) : Bool :=
  c.poolInit.w0 != 0 && c.poolInit.w1 != 0 && c.poolInit.w2 != 0 && c.poolInit.w3 != 0

/-- The configurations the spec admits. -/
def wellFormed (c : Config) : Bool := c.sizeOk && c.poolInitOk

end Config

end Sys2Proof
end

