-- ==== Sys2Proof/Decode.lean ====
section
/-! DEFINITION. The command word (30_encoding.md rules R53 to R57): decoder, encoder. -/

namespace Sys2Proof

/-- Why a word selects no command (R56). -/
inductive DecodeError where
  /-- bits[31:8] are not zero, whatever OP is -/
  | reservedBits
  /-- bits[31:8] are zero and OP is in 0x0A..0xFF -/
  | reservedOp (op : Byte)
deriving DecidableEq, Repr

/-- OP, bits 7:0 of the command word (R53). -/
def opField (w : Word) : Byte := w.extractLsb' 0 8

/-- RSVD, bits 31:8 of the command word (R53). -/
def rsvdField (w : Word) : BitVec 24 := w.extractLsb' 8 24

/-- The opcode map of R55. -/
def instrOfOp (op : Byte) : Except DecodeError Instr :=
  match op.toNat with
  | 0x00 => .ok .nop
  | 0x01 => .ok .mask
  | 0x02 => .ok .scramble
  | 0x03 => .ok .deobfuscate
  | 0x04 => .ok .checksum
  | 0x05 => .ok .shuffle
  | 0x06 => .ok .unshuffle
  | 0x07 => .ok .entDraw
  | 0x08 => .ok .entFill
  | 0x09 => .ok .entSeed
  | _ => .error (.reservedOp op)

/-- Decoding, in the order of R66: the reserved bits first, then OP. -/
def decode (w : Word) : Except DecodeError Instr :=
  if rsvdField w = 0 then instrOfOp (opField w) else .error .reservedBits

/-- The OP value of a command (R55). -/
def opcode : Instr → Byte
  | .nop => 0x00
  | .mask => 0x01
  | .scramble => 0x02
  | .deobfuscate => 0x03
  | .checksum => 0x04
  | .shuffle => 0x05
  | .unshuffle => 0x06
  | .entDraw => 0x07
  | .entFill => 0x08
  | .entSeed => 0x09

/-- The command word of a command: zero RSVD above its OP (R53, R55). -/
def encode (i : Instr) : Word := (opcode i).setWidth 32

/-- The command word with the low nbits bits of w and zeros above (the table's numbering: bit 0 least significant). -/
def tableWord (nbits w : Nat) : Word := BitVec.ofNat 32 (w % 2 ^ nbits)

/-- The instruction the decoder reads from a table row's bits. -/
def decodeTableWord (nbits w : Nat) : Option Instr := (decode (tableWord nbits w)).toOption

end Sys2Proof
end

