-- ==== Sys2Proof/Machine/State.lean ====
section
/-! DEFINITION. The state of the block (10_state.md rules R14 to R32), the host's accesses, the reasons to stop. -/

namespace Sys2Proof.Machine

/-- STATUS.ERRCODE (R19, R98); the values 4..15 are never produced. -/
inductive ErrCode where
  | none
  | illegal
  | range
  | overlap
deriving DecidableEq, Repr

/-- The two address spaces (R33, R34, R35). -/
inductive Space where
  | reg
  | bmem
deriving DecidableEq, Repr

/-- The width of a host access (R39, R40). -/
inductive Width where
  | w8
  | w16
  | w32
deriving DecidableEq, Repr

/-- What a host access does. -/
inductive AccessKind where
  | read
  | write (data : Word)
deriving DecidableEq, Repr

/-- One host access: an offset of REG or an address of BMEM, not yet known to be legal (R39, R40). -/
structure Access where
  space : Space
  addr : Nat
  width : Width
  kind : AccessKind
deriving DecidableEq, Repr

/-- The two agents (R14). -/
inductive Agent where
  | host
  | engine
deriving DecidableEq, Repr

/-- An array by index, as (index, entry) pairs with rising indices; an entry that nothing has written is not listed. -/
abbrev Sparse (α : Type) := List (Nat × α)

/-- BMEM: its cells are `Host.Cell`s. An unlisted address is unwritten (R25, D38). -/
abbrev Memory := Sparse Byte

/-- All state of the block, hidden state included, its configuration, and its ports as they stand. -/
structure State where
  /-- the configuration (R5 to R10): not state (R14), and no step changes it -/
  cfg : Config
  /-- STATUS.BUSY, bit 0 (R19) -/
  busy : Bool
  /-- STATUS.DONE, bit 1 (R19) -/
  done : Bool
  /-- STATUS.ERR, bit 2 (R19) -/
  err : Bool
  /-- STATUS.ERRCODE, bits 11:8 (R19) -/
  errCode : ErrCode
  /-- CTRL.IE (R21) -/
  ie : Bool
  /-- BUF_ADDR (R16) -/
  bufAddr : Word
  /-- BUF_LEN (R16) -/
  bufLen : Word
  /-- KEY_ADDR (R16) -/
  keyAddr : Word
  /-- KEY_LEN (R16) -/
  keyLen : Word
  /-- SEED (R16) -/
  seed : Word
  /-- RESULT (R22) -/
  result : Word
  /-- BMEM (R25) -/
  bmem : Memory
  /-- POOL, hidden (R26) -/
  pool : Pool
  /-- LCG, hidden (R27) -/
  lcg : Word
  /-- TRACE, hidden (R28); an entry not listed still holds its unspecified reset value -/
  trace : Sparse Nat
  /-- TMP, hidden (R28); an entry not listed still holds its unspecified reset value -/
  tmp : Sparse Byte
  /-- CUR_CMD, hidden (R29) -/
  curCmd : Word
  /-- the reset input is asserted (R110) -/
  rst : Bool
  /-- host accesses not yet performed, oldest first (R46) -/
  pending : List Access
  /-- the data of the performed host reads, newest first, zero-extended (R39, R40, R59) -/
  replies : List Word
  /-- WeakDraw values supplied by a test source (R31), next first -/
  weakIn : List Word
  /-- WeakDraws taken so far: the index of the next free one -/
  weakCount : Nat
  /-- Jitter values supplied by a test source (R31), next first -/
  jitterIn : List Word
  /-- Jitter draws taken so far: the index of the next free one -/
  jitterCount : Nat
  /-- the host's head starts as supplied, next first: how often it moves while a command runs, before the engine's step (log 4) -/
  headStarts : List Nat
  /-- commands executed or aborted so far: the index of the next free head start -/
  headStartCount : Nat
  /-- host moves made while the running command waited for the engine -/
  hostMoves : Nat
deriving DecidableEq, Repr

/-- The reasons to stop: exactly the model faults of R100. -/
inductive Fault where
  /-- Raised by a host access that is illegal by R39 or R40 (R41, R99), with the block unchanged. Safe: the spec says the host agent faults. -/
  | busError (space : Space) (addr : Nat) (width : Width)
  /-- Raised by a host read or a command read of a BMEM byte that nothing has written since reset (R25, R100). Safe: hardware returns some byte. -/
  | unwrittenRead (addr : Nat)
deriving DecidableEq, Repr

/-- The reasons to have no meaning for a command. -/
inductive Refusal where
  /-- Raised by an arm of exec whose instruction has no meaning yet. Safe: the machine stops. No arm raises it now. -/
  | notModelled (mnemonic : String)
deriving DecidableEq, Repr

/-- The outcomes of a step of this machine. -/
abbrev Result := Host.Outcome State Fault Refusal

/-- The block right after reset with configuration c (R111), with nothing waiting at its ports. -/
def State.resetWith (c : Config) : State where
  cfg := c
  busy := false
  done := false
  err := false
  errCode := .none
  ie := false
  bufAddr := 0
  bufLen := 0
  keyAddr := 0
  keyLen := 0
  seed := 0
  result := 0
  bmem := []
  pool := c.poolInit
  lcg := 0
  trace := []
  tmp := []
  curCmd := 0
  rst := false
  pending := []
  replies := []
  weakIn := []
  weakCount := 0
  jitterIn := []
  jitterCount := 0
  headStarts := []
  headStartCount := 0
  hostMoves := 0

/-- The block right after reset, with the spec's default parameters. -/
def State.reset : State := State.resetWith Config.default

end Sys2Proof.Machine
end

