-- ==== Sys2Proof/Machine/Flags.lean ====
section
/-! DEFINITION. The flags BUSY, DONE, ERR with ERRCODE (10_state.md rules R19, R20, R21, R30, R32), and what acceptance, completion and an error do to them. -/

namespace Sys2Proof.Machine

/-- The number of an error code (R98). -/
def ErrCode.bits : ErrCode → BitVec 4
  | .none => 0
  | .illegal => 1
  | .range => 2
  | .overlap => 3

namespace State

/-- The read value of STATUS: bits 31:12 zero, ERRCODE, bits 7:3 zero, ERR, DONE, BUSY (R19). -/
def statusWord (s : State) : Word :=
  (0#20 ++ s.errCode.bits ++ 0#5 ++ BitVec.ofBool s.err ++ BitVec.ofBool s.done ++ BitVec.ofBool s.busy : BitVec 32)

/-- The read value of CTRL: zext_32(IE) (R21). -/
def ctrlWord (s : State) : Word := (BitVec.ofBool s.ie).setWidth 32

/-- The output irq: STATUS.DONE & CTRL.IE (R30, R101). -/
def irq (s : State) : Bool := s.done && s.ie

/-- Acceptance of the command word w (R64). -/
def accept (s : State) (w : Word) : State :=
  { s with curCmd := w, done := false, err := false, errCode := .none, busy := true }

/-- Completion of a command (R70). -/
def complete (s : State) : State := { s with busy := false, done := true }

/-- The error part of `raise CmdError(code)` (R69). -/
def setError (s : State) (c : ErrCode) : State := { s with err := true, errCode := c }

/-- A host write of w to STATUS: write 1 to clear (R20). -/
def writeStatus (s : State) (w : Word) : State :=
  { s with
    done := if w.getLsbD 1 then false else s.done
    err := if w.getLsbD 2 then false else s.err
    errCode := if w.getLsbD 2 then .none else s.errCode }

/-- A host write of w to CTRL (R21). -/
def writeCtrl (s : State) (w : Word) : State := { s with ie := w.getLsbD 0 }

end State

end Sys2Proof.Machine
end

