-- ==== Sys2Proof/Machine/Ops.lean ====
section
/-! DEFINITION. The named operations over arrays, BMEM and the entropy inputs, and ending a command.
The block takes no trap and has no return from one (60_exceptions.md rules R103, R104); `State.cmdError` is what it has instead. -/

namespace Sys2Proof.Machine

namespace Sparse

variable {α : Type}

/-- The entry at index a, if something has written it. -/
def read : Sparse α → Nat → Option α
  | [], _ => none
  | (k, v) :: m, a => if k = a then some v else read m a

/-- The array with entry v at index a, its indices still rising. -/
def write : Sparse α → Nat → α → Sparse α
  | [], a, v => [(a, v)]
  | (k, w) :: m, a, v =>
    if a < k then (a, v) :: (k, w) :: m
    else if a = k then (a, v) :: m
    else (k, w) :: write m a v

/-- A read that must find an entry: the missing index where there is none. -/
def fetch (m : Sparse α) (a : Nat) : Except Nat α :=
  match read m a with
  | some v => .ok v
  | none => .error a

/-- The array with the n entries from index a on made unwritten. -/
def forget (m : Sparse α) (a n : Nat) : Sparse α :=
  m.filter fun c => decide (¬ (a ≤ c.1 ∧ c.1 < a + n))

/-- The canonical form: indices strictly rising. An unlisted entry has no value, so no listed one can equal it. -/
abbrev wf (m : Sparse α) : Prop := m.Pairwise fun c d => c.1 < d.1

/-- `for i = i0 to i0 + n - 1`, ascending (R71): `body m i` gives the index and the value to store. -/
def storeLoop (body : Sparse α → Nat → Except Nat (Nat × α)) : (n i0 : Nat) → Sparse α → Except Nat (Sparse α)
  | 0, _, m => .ok m
  | n + 1, i0, m =>
    match body m i0 with
    | .error x => .error x
    | .ok (k, v) => storeLoop body n (i0 + 1) (write m k v)

/-- Exchange the entries base + i and base + j: both read, then both written (R88, R89). -/
def swap (base : Nat) (m : Sparse α) (i j : Nat) : Except Nat (Sparse α) :=
  match fetch m (base + i), fetch m (base + j) with
  | .ok x, .ok y => .ok (write (write m (base + i) y) (base + j) x)
  | .error e, _ => .error e
  | .ok _, .error e => .error e

/-- ApplySwaps: the pairs in list order (R87), on data or on index markers alike. -/
def applySwaps (base : Nat) : List (Nat × Nat) → Sparse α → Except Nat (Sparse α)
  | [], m => .ok m
  | (i, j) :: l, m =>
    match swap base m i j with
    | .error e => .error e
    | .ok m' => applySwaps base l m'

end Sparse

/-- The canonical form of BMEM. -/
abbrev Memory.wf (m : Memory) : Prop := Sparse.wf m

/-- The number of bytes of an access. -/
def Width.bytes : Width → Nat
  | .w8 => 1
  | .w16 => 2
  | .w32 => 4

/-- The number of bits of an access. -/
def Width.bits : Width → Nat
  | .w8 => 8
  | .w16 => 16
  | .w32 => 32

/-- MemRead(a, n): n bytes, little-endian (R37, R38), or the lowest unwritten address among them (log 8). -/
def memRead (m : Memory) : (a n : Nat) → Except Nat Word
  | _, 0 => .ok 0
  | a, n + 1 =>
    match Sparse.fetch m a with
    | .error x => .error x
    | .ok b =>
      match memRead m (a + 1) n with
      | .error x => .error x
      | .ok w => .ok ((w <<< 8) ||| b.setWidth 32)

/-- MemWrite(a, n, v): byte k of v goes to a + k (R37, R38). -/
def memWrite (m : Memory) : (a n : Nat) → Word → Memory
  | _, 0, _ => m
  | a, n + 1, v => memWrite (Sparse.write m a (v.extractLsb' 0 8)) (a + 1) n (v >>> 8)

namespace State

/-- `raise CmdError(code)`, then completion; nothing else is written (R69). The one way a command ends with an error. -/
def cmdError (s : State) (c : ErrCode) : State := (s.setError c).complete

/-- The state with BMEM replaced. -/
def withBmem (s : State) (m : Memory) : State := { s with bmem := m }

/-- The state with RESULT replaced. -/
def withResult (s : State) (w : Word) : State := { s with result := w }

/-- The state with LCG replaced. -/
def withLcg (s : State) (w : Word) : State := { s with lcg := w }

/-- The end of a command whose engine accesses gave BMEM contents, or missed an unwritten byte (R65). -/
def finishBmem (s : State) : Except Nat Memory → Result
  | .ok m => .next (s.withBmem m).complete
  | .error x => .fault (.unwrittenRead x)

/-- The k-th WeakDraw from here: the test source's value where it supplied one (R31), else a free one (R9). -/
def weakDraw (s : State) (k : Nat) : Word := (s.weakIn[k]?).getD (Config.weakDraw (s.weakCount + k))

/-- n WeakDraws are taken. -/
def takeWeak (s : State) (n : Nat) : State :=
  { s with weakIn := s.weakIn.drop n, weakCount := s.weakCount + n }

/-- The next Jitter: the test source's value where it supplied one (R31), else a free one (R9). -/
def jitterDraw (s : State) : Word := (s.jitterIn.head?).getD (Config.jitter s.jitterCount)

/-- One Jitter is taken. -/
def takeJitter (s : State) : State :=
  { s with jitterIn := s.jitterIn.drop 1, jitterCount := s.jitterCount + 1 }

/-- How often the host moves while the current command runs, before the engine's step: as supplied, else a free number (log 4). -/
def headStart (s : State) : Nat := (s.headStarts.head?).getD (Config.headStart s.headStartCount)

/-- The agent that moves next when both can: the host while its head start lasts, then the engine (log 4).
The head start is finite, so the engine's step is weakly fair (R65, R117). -/
def nextAgent (s : State) : Agent := if s.hostMoves < s.headStart then .host else .engine

/-- The host has moved while a command runs. -/
def hostTurn (s : State) : State := { s with hostMoves := s.hostMoves + 1 }

/-- The engine moves: the head start of its command is used up. -/
def engineTurn (s : State) : State :=
  { s with headStarts := s.headStarts.drop 1, headStartCount := s.headStartCount + 1, hostMoves := 0 }

/-- A host read is answered with w. -/
def answer (s : State) (w : Word) : State := { s with replies := w :: s.replies }

end State

end Sys2Proof.Machine
end

