-- ==== Sys2Proof/Machine/Operands.lean ====
section
/-! DEFINITION. The operands of the commands: regions named by the operand registers (30_encoding.md rule R54, 40_command_control.md rules R67, R68, R71). -/

namespace Sys2Proof.Machine

/-- InRange(a, n), in unbounded arithmetic (R67). -/
def inRange (c : Config) (a n : Nat) : Bool := n == 0 || decide (a + n ≤ c.bmemSize)

/-- Overlap(a1, n1, a2, n2), in unbounded arithmetic (R68). -/
def overlap (a1 n1 a2 n2 : Nat) : Bool :=
  decide (0 < n1) && decide (0 < n2) && decide (a1 < a2 + n2) && decide (a2 < a1 + n1)

namespace State

/-- The address of the buffer region's first byte (R16, R71). -/
def bufA (s : State) : Nat := s.bufAddr.toNat

/-- The length of the buffer region (R16, R71). -/
def bufN (s : State) : Nat := s.bufLen.toNat

/-- The address of the key region's first byte (R16, R71). -/
def keyA (s : State) : Nat := s.keyAddr.toNat

/-- The length of the key region (R16, R71). -/
def keyN (s : State) : Nat := s.keyLen.toNat

/-- The buffer region is in range (R67). -/
def bufInRange (s : State) : Bool := inRange s.cfg s.bufA s.bufN

/-- The key region is in range (R67). -/
def keyInRange (s : State) : Bool := inRange s.cfg s.keyA s.keyN

/-- The buffer and key regions overlap (R68). -/
def regionsOverlap (s : State) : Bool := overlap s.bufA s.bufN s.keyA s.keyN

end State

end Sys2Proof.Machine
end

