-- ==== Sys2Proof/Machine/Checksum.lean ====
section
/-! DEFINITION. The Checksum Computer: CHECKSUM (43_checksum.md rule R83). -/

namespace Sys2Proof.Machine

/-- The sum loop from address a over n bytes, with accumulator acc modulo 2^32; bytes are unsigned (R83, D15). -/
def sumLoop (m : Memory) : (n a : Nat) → Word → Except Nat Word
  | 0, _, acc => .ok acc
  | n + 1, a, acc =>
    match Sparse.fetch m a with
    | .ok b => sumLoop m n (a + 1) (acc + b.setWidth 32)
    | .error x => .error x

/-- CHECKSUM (R83). -/
def execChecksum (s : State) : Result :=
  if s.bufN = 0 then .next (s.withResult 0).complete
  else if !s.bufInRange then .next (s.cmdError .range)
  else
    match sumLoop s.bmem s.bufN s.bufA 0 with
    | .ok w => .next (s.withResult w).complete
    | .error x => .fault (.unwrittenRead x)

end Sys2Proof.Machine
end

