-- ==== Sys2Proof/Machine/Control.lean ====
section
/-! DEFINITION. NOP (40_command_control.md rule R72). -/

namespace Sys2Proof.Machine

/-- NOP does nothing but complete (R72). -/
def execNop (s : State) : Result := .next s.complete

end Sys2Proof.Machine
end

