-- ==== Sys2Proof/Machine/Entropy.lean ====
section
/-! DEFINITION. The Entropy Source: ENT_DRAW, ENT_FILL, ENT_SEED (45_entropy.md rules R92 to R96).
The draws are free inputs (00_scope.md rule R9): each operation takes them as arguments, and the meaning supplies them from the entropy inputs. -/

namespace Sys2Proof.Machine

/-- ENT_DRAW with the draw w (R93). -/
def entDrawWith (w : Word) (s : State) : Result := .next (s.withResult w).complete

/-- ENT_DRAW (R93). -/
def execEntDraw (s : State) : Result := entDrawWith (s.weakDraw 0) (s.takeWeak 1)

/-- One iteration of ENT_FILL: the low byte of the i-th draw (R94). -/
def fillByte (a : Nat) (draw : Nat → Word) (_ : Memory) (i : Nat) : Except Nat (Nat × Byte) :=
  .ok (a + i, (draw i).extractLsb' 0 8)

/-- ENT_FILL's loop with the draws `draw 0`, `draw 1`, ... (R94). -/
def entFillWith (draw : Nat → Word) (s : State) : Result :=
  s.finishBmem (Sparse.storeLoop (fillByte s.bufA draw) s.bufN 0 s.bmem)

/-- ENT_FILL (R94): no draw is taken by a no-op or a RANGE error. -/
def execEntFill (s : State) : Result :=
  if s.bufN = 0 then .next s.complete
  else if !s.bufInRange then .next (s.cmdError .range)
  else entFillWith s.weakDraw (s.takeWeak s.bufN)

/-- The state with POOL replaced. -/
def State.withPool (s : State) (p : Pool) : State := { s with pool := p }

/-- ENT_SEED with the jitter j (R95). -/
def entSeedWith (j : Word) (s : State) : Result := .next (s.withPool (Config.poolMix s.pool s.seed j)).complete

/-- ENT_SEED (R95). -/
def execEntSeed (s : State) : Result := entSeedWith s.jitterDraw s.takeJitter

end Sys2Proof.Machine
end

