-- ==== Sys2Proof/Machine/Masker.lean ====
section
/-! DEFINITION. The Byte Masker: MASK (41_byte_masker.md rule R75). -/

namespace Sys2Proof.Machine

/-- One iteration of MASK: the key byte is read first, then the buffer byte (R75). -/
def maskByte (a ka kl : Nat) (m : Memory) (i : Nat) : Except Nat (Nat × Byte) :=
  match Sparse.fetch m (ka + i % kl), Sparse.fetch m (a + i) with
  | .ok kb, .ok bb => .ok (a + i, bb ^^^ kb)
  | .error x, _ => .error x
  | .ok _, .error x => .error x

/-- MASK (R75): the no-op conditions, then RANGE, RANGE, OVERLAP, then the XOR loop. -/
def execMask (s : State) : Result :=
  if s.keyN = 0 then .next s.complete
  else if s.bufN = 0 then .next s.complete
  else if !s.bufInRange then .next (s.cmdError .range)
  else if !s.keyInRange then .next (s.cmdError .range)
  else if s.regionsOverlap then .next (s.cmdError .overlap)
  else s.finishBmem (Sparse.storeLoop (maskByte s.bufA s.keyA s.keyN) s.bufN 0 s.bmem)

end Sys2Proof.Machine
end

