-- ==== Sys2Proof/Machine/Permutation.lean ====
section
/-! DEFINITION. The Permutation Engine: SHUFFLE and UNSHUFFLE (44_permutation.md rules R85 to R89). -/

namespace Sys2Proof.Machine

/-- lcg_next(s) = (1103515245 * s + 12345) mod 2^31, on an unbounded product (R85). -/
def lcgNext (s : Word) : Word := BitVec.ofNat 32 ((1103515245 * s.toNat + 12345) % 2 ^ 31)

/-- The LCG register after k advances from s (R86). -/
def lcgAfter : Nat → Word → Word
  | 0, s => s
  | k + 1, s => lcgAfter k (lcgNext s)

/-- The pairs for i = top downto 1: advance once, then j = LCG mod (i + 1) (R87). -/
def swapsFrom : (top : Nat) → Word → List (Nat × Nat)
  | 0, _ => []
  | i + 1, l => (i + 1, (lcgNext l).toNat % (i + 2)) :: swapsFrom i (lcgNext l)

/-- SwapSeq(n, seed) (R87). -/
def swapSeq (n : Nat) (seed : Word) : List (Nat × Nat) := swapsFrom (n - 1) seed

/-- SHUFFLE (R88). LCG is loaded from SEED and advanced once for each pair (R86). -/
def execShuffle (s : State) : Result :=
  if s.bufN < 2 then .next s.complete
  else if !s.bufInRange then .next (s.cmdError .range)
  else
    (s.withLcg (lcgAfter (s.bufN - 1) s.seed)).finishBmem
      (Sparse.applySwaps s.bufA (swapSeq s.bufN s.seed) s.bmem)

/-- What UNSHUFFLE leaves in its three arrays. -/
structure Unshuffled where
  trace : Sparse Nat
  tmp : Sparse Byte
  bmem : Memory
deriving DecidableEq, Repr

/-- TRACE[i] <- i. -/
def identityEntry (_ : Sparse Nat) (i : Nat) : Except Nat (Nat × Nat) := .ok (i, i)

/-- TMP[TRACE[i]] <- MemRead(a + i, 1). -/
def scatterByte (a : Nat) (trace : Sparse Nat) (m : Memory) (_ : Sparse Byte) (i : Nat) : Except Nat (Nat × Byte) :=
  match Sparse.fetch trace i, Sparse.fetch m (a + i) with
  | .ok k, .ok b => .ok (k, b)
  | .error x, _ => .error x
  | .ok _, .error x => .error x

/-- MemWrite(a + i, 1, TMP[i]). -/
def copyBackByte (a : Nat) (tmp : Sparse Byte) (_ : Memory) (i : Nat) : Except Nat (Nat × Byte) :=
  match Sparse.fetch tmp i with
  | .ok b => .ok (a + i, b)
  | .error x => .error x

/-- The four loops of UNSHUFFLE (R89): the identity permutation, the swaps on it, the scatter, the copy back.
Only a read of BMEM can miss an entry: TRACE is a permutation of 0..n-1 (lemma unshuffleArrays_ok). -/
def unshuffleArrays (a n : Nat) (seed : Word) (trace : Sparse Nat) (tmp : Sparse Byte) (m : Memory) : Except Nat Unshuffled :=
  match Sparse.storeLoop identityEntry n 0 trace with
  | .error x => .error x
  | .ok t0 =>
    match Sparse.applySwaps 0 (swapSeq n seed) t0 with
    | .error x => .error x
    | .ok t =>
      match Sparse.storeLoop (scatterByte a t m) n 0 tmp with
      | .error x => .error x
      | .ok u =>
        match Sparse.storeLoop (copyBackByte a u) n 0 m with
        | .error x => .error x
        | .ok m' => .ok ⟨t, u, m'⟩

/-- The state with TRACE and TMP replaced. -/
def State.withScratch (s : State) (t : Sparse Nat) (u : Sparse Byte) : State := { s with trace := t, tmp := u }

/-- UNSHUFFLE (R89). -/
def execUnshuffle (s : State) : Result :=
  if s.bufN < 2 then .next s.complete
  else if !s.bufInRange then .next (s.cmdError .range)
  else
    match unshuffleArrays s.bufA s.bufN s.seed s.trace s.tmp s.bmem with
    | .error x => .fault (.unwrittenRead x)
    | .ok u =>
      .next (((s.withLcg (lcgAfter (s.bufN - 1) s.seed)).withScratch u.trace u.tmp).withBmem u.bmem).complete

end Sys2Proof.Machine
end

