-- ==== Sys2Proof/Machine/Scrambler.lean ====
section
/-! DEFINITION. The Bit Scrambler: SCRAMBLE and DEOBFUSCATE (42_bit_scrambler.md rules R77 to R80). The two are not inverses (R81). -/

namespace Sys2Proof.Machine

/-- rotl8(b, k), for 0 <= k <= 7 (R12). -/
def rotl8 (b : Byte) (k : Nat) : Byte := (b <<< k) ||| (b >>> (8 - k))

/-- rotr8(b, k), for 0 <= k <= 7 (R12). -/
def rotr8 (b : Byte) (k : Nat) : Byte := (b >>> k) ||| (b <<< (8 - k))

/-- scramble_byte under each SCRAMBLE_FORM (R77): the XOR is inside the OR's right operand. -/
def scrambleByte (f : ScrambleForm) (b : Byte) : Byte :=
  match f with
  | .rotate => rotl8 b 3 ||| (rotr8 b 5 ^^^ 0xA5#8)
  | .shift => (b <<< 3) ||| ((b >>> 5) ^^^ 0xA5#8)

/-- deobfuscate_byte (R79). -/
def deobfuscateByte (b : Byte) : Byte :=
  rotr8 (b ^^^ 0xA5#8) 3 ||| rotl8 (b ^^^ 0xA5#8) 5

/-- One iteration that replaces byte a + i by f of it. -/
def mapByte (f : Byte → Byte) (a : Nat) (m : Memory) (i : Nat) : Except Nat (Nat × Byte) :=
  match Sparse.fetch m (a + i) with
  | .ok b => .ok (a + i, f b)
  | .error x => .error x

/-- The frame of a command that replaces every byte of the buffer region by f of it (R78, R80). -/
def mapBuffer (f : Byte → Byte) (s : State) : Result :=
  if s.bufN = 0 then .next s.complete
  else if !s.bufInRange then .next (s.cmdError .range)
  else s.finishBmem (Sparse.storeLoop (mapByte f s.bufA) s.bufN 0 s.bmem)

/-- SCRAMBLE, alias OBFUSCATE (R78). -/
def execScramble (s : State) : Result := mapBuffer (scrambleByte s.cfg.scrambleForm) s

/-- DEOBFUSCATE (R80). -/
def execDeobfuscate (s : State) : Result := mapBuffer deobfuscateByte s

end Sys2Proof.Machine
end

