-- ==== Sys2Proof/Machine/Dispatch.lean ====
section
/-! DEFINITION. Execute (40_command_control.md rule R66): one arm per command. -/

namespace Sys2Proof.Machine

def exec (i : Instr) (s : State) : Host.Outcome State Fault Refusal :=
  match i with
  | .nop => Sys2Proof.Machine.execNop s
  | .mask => Sys2Proof.Machine.execMask s
  | .scramble => Sys2Proof.Machine.execScramble s
  | .deobfuscate => Sys2Proof.Machine.execDeobfuscate s
  | .checksum => Sys2Proof.Machine.execChecksum s
  | .shuffle => Sys2Proof.Machine.execShuffle s
  | .unshuffle => Sys2Proof.Machine.execUnshuffle s
  | .entDraw => Sys2Proof.Machine.execEntDraw s
  | .entFill => Sys2Proof.Machine.execEntFill s
  | .entSeed => Sys2Proof.Machine.execEntSeed s

end Sys2Proof.Machine
end

