-- ==== Sys2Proof/Machine/HostPort.lean ====
section
/-! DEFINITION. The host's register and memory ports (10_state.md rules R15 to R24, 20_memory.md rules R33 to R47). -/

namespace Sys2Proof.Machine

/-- The named registers of the register map (10_state.md). -/
inductive Reg where
  | cmd
  | status
  | ctrl
  | bufAddr
  | bufLen
  | keyAddr
  | keyLen
  | seed
  | result
  | id
deriving DecidableEq, Repr

/-- The offset of a register (register map of 10_state.md). -/
def Reg.offset : Reg → Nat
  | .cmd => 0x000
  | .status => 0x004
  | .ctrl => 0x008
  | .bufAddr => 0x00C
  | .bufLen => 0x010
  | .keyAddr => 0x014
  | .keyLen => 0x018
  | .seed => 0x01C
  | .result => 0x020
  | .id => 0x024

/-- The register at an offset; none at the reserved offsets 0x028 to 0xFFC (R24). -/
def regAt (off : Nat) : Option Reg :=
  match off with
  | 0x000 => some .cmd
  | 0x004 => some .status
  | 0x008 => some .ctrl
  | 0x00C => some .bufAddr
  | 0x010 => some .bufLen
  | 0x014 => some .keyAddr
  | 0x018 => some .keyLen
  | 0x01C => some .seed
  | 0x020 => some .result
  | 0x024 => some .id
  | _ => none

/-- The constant of ID (R23): "FIO" in bits 31:8, 0x07 in bits 7:0. -/
def idWord : Word := 0x46494F07#32

/-- The read value of a register (R16, R18, R19, R21 to R23). -/
def State.readReg (s : State) : Reg → Word
  | .cmd => 0
  | .status => s.statusWord
  | .ctrl => s.ctrlWord
  | .bufAddr => s.bufAddr
  | .bufLen => s.bufLen
  | .keyAddr => s.keyAddr
  | .keyLen => s.keyLen
  | .seed => s.seed
  | .result => s.result
  | .id => idWord

/-- The write effect of a register (R16, R18, R20 to R23). -/
def State.writeReg (s : State) (r : Reg) (w : Word) : State :=
  match r with
  | .cmd => s.accept w
  | .status => s.writeStatus w
  | .ctrl => s.writeCtrl w
  | .bufAddr => { s with bufAddr := w }
  | .bufLen => { s with bufLen := w }
  | .keyAddr => { s with keyAddr := w }
  | .keyLen => { s with keyLen := w }
  | .seed => { s with seed := w }
  | .result => s
  | .id => s

/-- RegRead(off); a reserved offset reads as 0 (R24, R39). -/
def regRead (s : State) (off : Nat) : Word :=
  match regAt off with
  | some r => s.readReg r
  | none => 0

/-- RegWrite(off, w); a write to a reserved offset has no effect (R24, R39). -/
def regWrite (s : State) (off : Nat) (w : Word) : State :=
  match regAt off with
  | some r => s.writeReg r w
  | none => s

namespace Access

/-- Which accesses are legal: R39 for the register port, R40 for the memory port. -/
def legal (c : Config) (a : Access) : Bool :=
  match a.space with
  | .reg => a.width == .w32 && a.addr % 4 == 0 && decide (a.addr ≤ 0xFFC)
  | .bmem => a.addr % a.width.bytes == 0 && decide (a.addr + a.width.bytes ≤ c.bmemSize)

/-- A register read of STATUS, the one access that is never held (R47). -/
def isStatusRead (a : Access) : Bool := a.space == .reg && a.addr == 0x004 && a.kind == .read

/-- Held in state s: while BUSY = 1, every legal access but a STATUS read (R47). -/
def held (s : State) (a : Access) : Bool := s.busy && a.legal s.cfg && !a.isStatusRead

/-- The system address at which the platform places the access (R10, R36). No rule of the block depends on it. -/
def systemAddr (c : Config) (a : Access) : Nat :=
  match a.space with
  | .reg => c.regBase + a.addr
  | .bmem => c.bmemBase + a.addr

end Access

/-- A legal access to the register port (R39). -/
def State.performReg (s : State) (a : Access) : State :=
  match a.kind with
  | .read => s.answer (regRead s a.addr)
  | .write w => regWrite s a.addr w

/-- A legal access to the memory port (R40); a read of an unwritten byte is a fault (R38). -/
def State.performBmem (s : State) (a : Access) : Result :=
  match a.kind with
  | .read =>
    match memRead s.bmem a.addr a.width.bytes with
    | .ok w => .next (s.answer w)
    | .error x => .fault (.unwrittenRead x)
  | .write w => .next (s.withBmem (memWrite s.bmem a.addr a.width.bytes w))

/-- Performing a host access that is not held: a bus error where it is illegal (R41). -/
def State.perform (s : State) (a : Access) : Result :=
  if a.legal s.cfg then
    match a.space with
    | .reg => .next (s.performReg a)
    | .bmem => s.performBmem a
  else .fault (.busError a.space a.addr a.width)

/-- The host issues an access: it waits behind those already issued (R46). -/
def State.issue (s : State) (a : Access) : State := { s with pending := s.pending ++ [a] }

/-- The oldest waiting access leaves the queue. -/
def State.dequeue (s : State) : State := { s with pending := s.pending.drop 1 }

end Sys2Proof.Machine
end

