-- ==== Sys2Proof/Machine/Reset.lean ====
section
/-! DEFINITION. The reset input (70_reset_and_hazards.md rules R110 to R112). -/

namespace Sys2Proof.Machine

/-- Does the command word select a command whose output region is the buffer region (R112)? -/
def writesBuffer (w : Word) : Bool :=
  match decode w with
  | .ok .mask | .ok .scramble | .ok .deobfuscate | .ok .shuffle | .ok .unshuffle | .ok .entFill => true
  | .ok .nop | .ok .checksum | .ok .entDraw | .ok .entSeed => false
  | .error _ => false

namespace State

/-- BMEM after release. A running command is aborted and its output region becomes unwritten, the rest is kept (R112).
With no command running every byte becomes unwritten (R111, R25); see log 6. -/
def bmemAfterReset (s : State) : Memory :=
  if s.busy then
    if writesBuffer s.curCmd then Sparse.forget s.bmem s.bufA s.bufN else s.bmem
  else []

/-- The host's head start after release: an aborted command's is used up with it (log 4). -/
def turnAfterReset (s : State) : State := if s.busy then s.engineTurn else s

/-- Release of `rst`: every piece of state takes its reset value (R111); accesses held meanwhile still wait (R110). -/
def release (s : State) : State :=
  { State.resetWith s.cfg with
    bmem := s.bmemAfterReset
    pending := s.pending
    replies := s.replies
    weakIn := s.weakIn
    weakCount := s.weakCount
    jitterIn := s.jitterIn
    jitterCount := s.jitterCount
    headStarts := s.turnAfterReset.headStarts
    headStartCount := s.turnAfterReset.headStartCount
    hostMoves := s.turnAfterReset.hostMoves }

/-- The outside asserts `rst` (R110). -/
def assertReset (s : State) : State := { s with rst := true }

end State

end Sys2Proof.Machine
end

