-- ==== Sys2Proof/Machine/Engine.lean ====
section
/-! DEFINITION. The engine's step, the host's step, and which of them moves (20_memory.md rules R46 to R48, 40_command_control.md rules R62 to R66). -/

namespace Sys2Proof.Machine

/-- Execute(CUR_CMD) and completion (R65, R66): a word that selects no command ends with ILLEGAL. -/
def engineStep (s : State) : Result :=
  match decode s.curCmd with
  | .ok i => exec i s
  | .error _ => .next (s.cmdError .illegal)

/-- Both agents can move: a command runs and access a is not held (R47, R65). -/
def contended (s : State) (a : Access) : Bool := s.busy && !a.held s

/-- The engine moves (R65). -/
def engineMove (s : State) : Result := engineStep s.engineTurn

/-- One event of the block out of reset.
With nothing waiting, the engine moves if a command runs, and otherwise the block stays idle (R65, R109).
A waiting access that is held leaves the engine as the only agent that can move (R47).
Where both can move, `State.nextAgent` says which does (log 4). -/
def agentStep (s : State) : Result :=
  match s.pending with
  | [] => if s.busy then engineMove s else .next s
  | a :: _ =>
    if a.held s then engineMove s
    else if contended s a then
      match s.nextAgent with
      | .host => s.hostTurn.dequeue.perform a
      | .engine => engineMove s
    else s.dequeue.perform a

/-- With `rst` asserted nothing has a step but its release (R110).
DESIGN CHOICE (log 6): an illegal access is held too and gets its bus error after release, by R110's "every host access is held",
though R47 answers one at once, held or not. -/
def blockStep (s : State) : Result := if s.rst then .next s.release else agentStep s

/-- s with the command w accepted, out of reset, and the engine moving next. -/
def State.fetching (s : State) (w : Word) : State :=
  let t := { s.accept w with rst := false }
  match t.pending with
  | [] => t
  | a :: _ => if contended t a then { t with headStarts := 0 :: t.headStarts } else t

end Sys2Proof.Machine
end

