-- ==== Sys2Proof/Machine/Step.lean ====
section
/-! DEFINITION. One step of the machine. -/

namespace Sys2Proof.Machine

/-- One step: the next event of the block. -/
def step (s : State) : Host.Outcome State Fault Refusal := blockStep s

/-- s with the command word of a table row accepted (40_command_control.md rule R64), so that the very next step runs it (log 9). -/
def State.withFetchWord (s : State) (nbits w : Nat) : State := s.fetching (tableWord nbits w)

end Sys2Proof.Machine
end

