-- ==== Sys2Proof/Machine/HostProgram.lean ====
section
/-! DEFINITION. The host program language and the host that runs it (30_encoding.md rules R59 to R61).
It is an agent outside the block: its scratch variables are no part of State (R59). -/

namespace Sys2Proof.Machine

/-- A statement of a host program as it is written, mnemonics and register names still as text (R59, R60). -/
inductive Source where
  /-- `name:`; labels are numbers here -/
  | label (l : Nat)
  | wr (name : String) (v : Nat)
  | rd (t : Fin 10) (name : String)
  | cmd (mnemonic : String)
  | cmdRaw (v : Nat)
  /-- `sb`, `sh`, `sw` -/
  | store (width : Width) (a v : Nat)
  /-- `lb`, `lh`, `lw` -/
  | load (width : Width) (t : Fin 10) (a : Nat)
  | bnz (t : Fin 10) (m : Nat) (l : Nat)
  | bz (t : Fin 10) (m : Nat) (l : Nat)
  | wait
  | run (mnemonic : String)
  | clr
  | buf (a n : Nat)
  | key (a n : Nat)
  | bytes (a : Nat) (bs : List Nat)
deriving DecidableEq, Repr

/-- A line of an assembled host program. -/
inductive Line where
  | label (l : Nat)
  /-- perform an access; the data of a read goes to the scratch variable, if one is named -/
  | access (a : Access) (dest : Option (Fin 10))
  /-- go to label l if (t & m) is non-zero (`nz` true) or zero (`nz` false) -/
  | branch (nz : Bool) (t : Fin 10) (m : Word) (l : Nat)
deriving DecidableEq, Repr

/-- Why an assembler refuses a statement (R61). -/
inductive AsmError where
  | unknownMnemonic
  | unknownRegister
  | valueTooWide
  | misalignedStore
deriving DecidableEq, Repr

/-- The command of a mnemonic, in upper or lower case (R59), with the alias OBFUSCATE (R60). -/
def mnemonicInstr (s : String) : Option Instr :=
  [("NOP", .nop), ("nop", .nop), ("MASK", .mask), ("mask", .mask),
   ("SCRAMBLE", .scramble), ("scramble", .scramble), ("OBFUSCATE", .scramble), ("obfuscate", .scramble),
   ("DEOBFUSCATE", .deobfuscate), ("deobfuscate", .deobfuscate), ("CHECKSUM", .checksum), ("checksum", .checksum),
   ("SHUFFLE", .shuffle), ("shuffle", .shuffle), ("UNSHUFFLE", .unshuffle), ("unshuffle", .unshuffle),
   ("ENT_DRAW", .entDraw), ("ent_draw", .entDraw), ("ENT_FILL", .entFill), ("ent_fill", .entFill),
   ("ENT_SEED", .entSeed), ("ent_seed", .entSeed)].lookup s

/-- The register of a name of the register map (R59). -/
def registerNamed (s : String) : Option Reg :=
  [("CMD", .cmd), ("STATUS", .status), ("CTRL", .ctrl), ("BUF_ADDR", .bufAddr), ("BUF_LEN", .bufLen),
   ("KEY_ADDR", .keyAddr), ("KEY_LEN", .keyLen), ("SEED", .seed), ("RESULT", .result), ("ID", .id)].lookup s

/-- RegWrite(off, v) as an access (R59). -/
def regWriteAccess (r : Reg) (v : Word) : Access := ⟨.reg, r.offset, .w32, .write v⟩

/-- RegRead(off) as an access (R59). -/
def regReadAccess (r : Reg) : Access := ⟨.reg, r.offset, .w32, .read⟩

namespace Source

/-- A number of a statement as a word, refused if it does not fit in 32 bits (R61). -/
def number (v : Nat) : Except AsmError Word :=
  if v < 2 ^ 32 then .ok (BitVec.ofNat 32 v) else .error .valueTooWide

/-- `wr NAME, v` (R59, R61). -/
def wrLine (name : String) (v : Nat) : Except AsmError (List Line) :=
  match registerNamed name with
  | none => .error .unknownRegister
  | some r => (number v).map fun w => [.access (regWriteAccess r w) none]

/-- `cmd MNEMONIC` (R59, R61). -/
def cmdLine (mnemonic : String) : Except AsmError (List Line) :=
  match mnemonicInstr mnemonic with
  | none => .error .unknownMnemonic
  | some i => .ok [.access (regWriteAccess .cmd (encode i)) none]

/-- `sb`, `sh`, `sw`: the address is a number aligned to the width (R59, R61). -/
def storeLine (width : Width) (a v : Nat) : Except AsmError (List Line) :=
  match number a, number v with
  | .ok _, .ok w => if a % width.bytes = 0 then .ok [.access ⟨.bmem, a, width, .write w⟩ none] else .error .misalignedStore
  | .error e, _ => .error e
  | .ok _, .error e => .error e

/-- Two pieces one after the other. -/
def both (x y : Except AsmError (List Line)) : Except AsmError (List Line) :=
  match x, y with
  | .ok xs, .ok ys => .ok (xs ++ ys)
  | .error e, _ => .error e
  | .ok _, .error e => .error e

/-- The lines of `wait`: `L: rd t9, STATUS`, `bnz t9, 0x1, L` with the fresh label L (R60). -/
def waitLines (fresh : Nat) : List Line :=
  [.label fresh, .access (regReadAccess .status) (some 9), .branch true 9 1 fresh]

/-- `bytes a, b0, b1, ...` (R60).
DESIGN CHOICE (log 10): R60's form always has b0; with no byte the statement assembles to no lines and its address is not checked. -/
def bytesLines : Nat → List Nat → Except AsmError (List Line)
  | _, [] => .ok []
  | a, b :: bs => both (storeLine .w8 a b) (bytesLines (a + 1) bs)

/-- The lines of one statement; `fresh` is a label used nowhere else (R59, R60, R61). -/
def lines (fresh : Nat) : Source → Except AsmError (List Line)
  | .label l => .ok [.label l]
  | .wr name v => wrLine name v
  | .rd t name =>
    match registerNamed name with
    | none => .error .unknownRegister
    | some r => .ok [.access (regReadAccess r) (some t)]
  | .cmd m => cmdLine m
  | .cmdRaw v => (number v).map fun w => [.access (regWriteAccess .cmd w) none]
  | .store width a v => storeLine width a v
  | .load width t a => (number a).map fun _ => [.access ⟨.bmem, a, width, .read⟩ (some t)]
  | .bnz t m l => (number m).map fun w => [.branch true t w l]
  | .bz t m l => (number m).map fun w => [.branch false t w l]
  | .wait => .ok (waitLines fresh)
  | .run m => both (cmdLine m) (.ok (waitLines fresh))
  | .clr => wrLine "STATUS" 6
  | .buf a n => both (wrLine "BUF_ADDR" a) (wrLine "BUF_LEN" n)
  | .key a n => both (wrLine "KEY_ADDR" a) (wrLine "KEY_LEN" n)
  | .bytes a bs => bytesLines a bs

/-- The largest label a statement names. -/
def topLabel : Source → Nat
  | .label l => l
  | .bnz _ _ l => l
  | .bz _ _ l => l
  | _ => 0

end Source

/-- The lines of a program, each statement with a label fresh for it. -/
def assembleFrom : Nat → List Source → Except AsmError (List Line)
  | _, [] => .ok []
  | fresh, p :: ps => Source.both (p.lines fresh) (assembleFrom (fresh + 1) ps)

/-- A host program assembled (R59 to R61). -/
def assemble (ps : List Source) : Except AsmError (List Line) :=
  assembleFrom ((ps.map Source.topLabel).foldl max 0 + 1) ps

/-- The host: its program, its position in it, its scratch variables, the one awaited read. -/
structure HostAgent where
  prog : List Line
  pc : Nat
  temps : Vector Word 10
  awaiting : Option (Fin 10)
deriving DecidableEq, Repr

/-- The host and the block. -/
structure System where
  host : HostAgent
  block : State
deriving DecidableEq, Repr

namespace HostAgent

/-- A program before its first line, scratch variables 0 (log 10). -/
def start (prog : List Line) : HostAgent := ⟨prog, 0, Vector.replicate 10 0, none⟩

/-- The index of a label: of its first definition where several lines define it, the end of the program where none does.
DESIGN CHOICE (log 10): R59 is silent on both, and the assembler takes such programs. -/
def target (h : HostAgent) (l : Nat) : Nat := h.prog.findIdx (· == Line.label l)

/-- The data of the awaited read goes to its scratch variable (R59). -/
def receive (h : HostAgent) (w : Word) : HostAgent :=
  match h.awaiting with
  | some t => { h with temps := h.temps.set t w, awaiting := none }
  | none => h

/-- One line that issues no access. -/
def jump (h : HostAgent) (nz : Bool) (t : Fin 10) (m : Word) (l : Nat) : HostAgent :=
  if ((h.temps[t] &&& m) != 0) == nz then { h with pc := h.target l } else { h with pc := h.pc + 1 }

end HostAgent

namespace System

/-- One step of the block, and the host receives its reply once its access is performed. -/
def blockMoves (y : System) : Host.Outcome System Fault Refusal :=
  match step y.block with
  | .fault f => .fault f
  | .refused r => .refused r
  | .next b =>
    match b.pending, b.replies with
    | [], w :: _ => .next ⟨y.host.receive w, b⟩
    | _, _ => .next ⟨y.host, b⟩

/-- The host's next line is done: it jumps, or issues an access. At the end of its program only the block moves. -/
def hostMoves (y : System) : Host.Outcome System Fault Refusal :=
  let b := if y.block.busy then y.block.hostTurn else y.block
  match y.host.prog[y.host.pc]? with
  | none => y.blockMoves
  | some (.label _) => .next ⟨{ y.host with pc := y.host.pc + 1 }, b⟩
  | some (.branch nz t m l) => .next ⟨y.host.jump nz t m l, b⟩
  | some (.access a dest) => .next ⟨{ y.host with pc := y.host.pc + 1, awaiting := dest }, b.issue a⟩

/-- One step of host and block.
DESIGN CHOICE (log 6): while `rst` is asserted no line of the host's program goes on either, a label, a branch or the issue of an access:
R110 speaks of accesses and the engine only.
The host goes on to its next line when its last access has been performed.
DESIGN CHOICE (log 4): the spec fixes no order between the host's next line and the engine's step of a running command;
`State.nextAgent` chooses as it does between a waiting access and the engine, so no host loop starves the engine (R65, R117). -/
def step (y : System) : Host.Outcome System Fault Refusal :=
  if y.block.rst || !y.block.pending.isEmpty then y.blockMoves
  else if y.block.busy && y.block.nextAgent == .engine then y.blockMoves
  else y.hostMoves

end System

end Sys2Proof.Machine
end

