-- ==== Sys2Proof/Safety.lean ====
section
/-! DEFINITION. What counts as a safe state and a safe run, and the words that statements are written in. -/

namespace Sys2Proof.Machine

/-- Every byte of the region (a, n) has been written (R25, R113 (3)). -/
def Written (m : Memory) (a n : Nat) : Prop := ∀ i, i < n → ∃ b, Sparse.read m (a + i) = some b

/-- Address x is a byte of the region (a, n). -/
def InRegion (a n x : Nat) : Prop := a ≤ x ∧ x < a + n

/-- The flags as acceptance leaves them, until completion (R64). -/
def Running (s : State) : Prop := s.busy = true ∧ s.done = false ∧ s.err = false ∧ s.errCode = .none

/-- The bytes of the region (a, n) in address order; an unwritten one counts as 0, so use it with `Written`. -/
def regionBytes (m : Memory) (a n : Nat) : List Byte := (List.range n).map fun i => (Sparse.read m (a + i)).getD 0

/-- Exchange of the entries i and j of an array given as a function (R87). -/
def swapAt {α : Type} (f : Nat → α) (p : Nat × Nat) : Nat → α :=
  fun x => if x = p.1 then f p.2 else if x = p.2 then f p.1 else f x

/-- ApplySwaps(A, L) on an array given as a function: the pairs in list order (R87). -/
def applySwapsTo {α : Type} (f : Nat → α) (l : List (Nat × Nat)) : Nat → α := l.foldl swapAt f

/-- What is true of every state the block can be in. -/
structure BlockInv (s : State) : Prop where
  /-- the configuration is one the spec admits (R5, R7) -/
  cfgOk : s.cfg.wellFormed = true
  /-- BMEM is in canonical form -/
  bmemWf : Memory.wf s.bmem
  /-- BMEM has the addresses 0..BMEM_SIZE-1 (R25) -/
  bmemIn : ∀ c ∈ s.bmem, c.1 < s.cfg.bmemSize
  /-- BUSY = 1 only with DONE = 0, ERR = 0, ERRCODE = 0 (R19) -/
  busyClear : s.busy = true → s.done = false ∧ s.err = false ∧ s.errCode = .none
  /-- ERR = 1 exactly when ERRCODE is not NONE (R19) -/
  errIff : s.err = true ↔ s.errCode ≠ .none
  /-- bit 31 of LCG is 0 (R91) -/
  lcgLt : s.lcg.toNat < 2 ^ 31
  /-- TRACE is in canonical form, its indices and entries are below BMEM_SIZE (R28) -/
  traceWf : Sparse.wf s.trace
  traceIn : ∀ c ∈ s.trace, c.1 < s.cfg.bmemSize ∧ c.2 < s.cfg.bmemSize
  /-- TMP is in canonical form and has BMEM_SIZE entries (R28) -/
  tmpWf : Sparse.wf s.tmp
  tmpIn : ∀ c ∈ s.tmp, c.1 < s.cfg.bmemSize

/-- k steps, stopping at the first fault or refusal (lemma runSteps_eq_core_run: the run of the host's interface). -/
def runSteps : Nat → State → Result
  | 0, s => .next s
  | k + 1, s =>
    match step s with
    | .next t => runSteps k t
    | .fault f => .fault f
    | .refused r => .refused r

/-- k steps, where the host issues the accesses `issued 0`, `issued 1`, ... before the first step, the second, ... (R46). -/
def runIssuing (issued : Nat → List Access) : Nat → State → Result
  | 0, s => .next s
  | k + 1, s =>
    match step { s with pending := s.pending ++ issued 0 } with
    | .next t => runIssuing (fun n => issued (n + 1)) k t
    | .fault f => .fault f
    | .refused r => .refused r

/-- k steps of host and block (R59). -/
def runSystem : Nat → System → Host.Outcome System Fault Refusal
  | 0, y => .next y
  | k + 1, y =>
    match y.step with
    | .next z => runSystem k z
    | .fault f => .fault f
    | .refused r => .refused r

/-- The mnemonics of R55 and the alias of R60, each in upper and in lower case (R59), with their command words. -/
def specMnemonics : List (String × Word) :=
  [("NOP", 0x00), ("MASK", 0x01), ("SCRAMBLE", 0x02), ("DEOBFUSCATE", 0x03), ("CHECKSUM", 0x04), ("SHUFFLE", 0x05),
   ("UNSHUFFLE", 0x06), ("ENT_DRAW", 0x07), ("ENT_FILL", 0x08), ("ENT_SEED", 0x09), ("OBFUSCATE", 0x02),
   ("nop", 0x00), ("mask", 0x01), ("scramble", 0x02), ("deobfuscate", 0x03), ("checksum", 0x04), ("shuffle", 0x05),
   ("unshuffle", 0x06), ("ent_draw", 0x07), ("ent_fill", 0x08), ("ent_seed", 0x09), ("obfuscate", 0x02)]

/-- The names of the register map with their offsets (10_state.md, R59). -/
def specRegisters : List (String × Nat) :=
  [("CMD", 0x000), ("STATUS", 0x004), ("CTRL", 0x008), ("BUF_ADDR", 0x00C), ("BUF_LEN", 0x010), ("KEY_ADDR", 0x014),
   ("KEY_LEN", 0x018), ("SEED", 0x01C), ("RESULT", 0x020), ("ID", 0x024)]

/-- Two outcomes that agree in everything but POOL. -/
def SameButPool : Result → Result → Prop
  | .next t, .next t' => t' = { t with pool := t'.pool }
  | .fault f, .fault f' => f = f'
  | .refused r, .refused r' => r = r'
  | _, _ => False

/-- No command is running, or the run has stopped with a fault. -/
def CompletedOrFault : Result → Prop
  | .next t => t.busy = false
  | .fault _ => True
  | .refused _ => False

/-- The same of host and block. -/
def SystemCompletedOrFault : Host.Outcome System Fault Refusal → Prop
  | .next y => y.block.busy = false
  | .fault _ => True
  | .refused _ => False

/-- A safe outcome: the machine goes on. -/
def Safe : Result → Prop
  | .next _ => True
  | .fault _ => False
  | .refused _ => False

end Sys2Proof.Machine
end

