-- ==== Sys2Proof/Certificates/Slice0/Obligations.lean ====
section
/-! DEFINITION. The statements for the provers. Each docstring names the rule of spec/ it rests on. -/

open Sys2Proof Sys2Proof.Machine

/-! ### Reset -/

/-- 10_state.md, table of reset values; R30 for irq; R23 for ID. -/
def Obligations.ResetStateHoldsResetValues : Prop :=
  State.reset.statusWord = 0 ∧ State.reset.ctrlWord = 0 ∧ State.reset.bufAddr = 0 ∧ State.reset.bufLen = 0 ∧
  State.reset.keyAddr = 0 ∧ State.reset.keyLen = 0 ∧ State.reset.seed = 0 ∧ State.reset.result = 0 ∧
  State.reset.lcg = 0 ∧ State.reset.curCmd = 0 ∧ State.reset.pool = State.reset.cfg.poolInit ∧
  (∀ x, Sparse.read State.reset.bmem x = none) ∧ State.reset.irq = false ∧ regRead State.reset 0x024 = 0x46494F07#32

/-- R111, for a release with no command running; R110 (nothing waiting is performed).
The model's choices in it: that BMEM becomes unwritten although R112 keeps bytes when a command runs (log 6);
that TRACE and TMP, which R28 and R111 leave unspecified, list nothing (log 5);
that the model's own fields of draws, head starts, waiting accesses and replies are kept (logs 3, 4, 7). -/
def Obligations.ReleaseWhileIdleResetsEverything : Prop :=
  ∀ s : State, s.rst = true → s.busy = false →
    step s = .next { s with
      busy := false, done := false, err := false, errCode := .none, ie := false,
      bufAddr := 0, bufLen := 0, keyAddr := 0, keyLen := 0, seed := 0, result := 0,
      bmem := [], pool := s.cfg.poolInit, lcg := 0, trace := [], tmp := [], curCmd := 0, rst := false }

/-- R112: the aborted command's output region becomes unwritten, every other byte is kept, all else is reset.
The model's choices in it: that R112 goes before R111, and that the whole region becomes unwritten even where the command would have been
a no-op or an error (log 6); that TRACE and TMP, unspecified by R111, list nothing (log 5);
that the head start of the aborted command is used up, in the model's own fields (log 4). -/
def Obligations.ReleaseWhileBusyAbortsCommand : Prop :=
  ∀ s : State, s.rst = true → s.busy = true →
    ∃ m : Memory,
      step s = .next { s with
        busy := false, done := false, err := false, errCode := .none, ie := false,
        bufAddr := 0, bufLen := 0, keyAddr := 0, keyLen := 0, seed := 0, result := 0,
        bmem := m, pool := s.cfg.poolInit, lcg := 0, trace := [], tmp := [], curCmd := 0, rst := false,
        headStarts := s.headStarts.drop 1, headStartCount := s.headStartCount + 1, hostMoves := 0 } ∧
      (∀ i ∈ [Instr.mask, .scramble, .deobfuscate, .shuffle, .unshuffle, .entFill], s.curCmd = encode i →
        ∀ x, InRegion s.bufA s.bufN x → Sparse.read m x = none) ∧
      (∀ i ∈ [Instr.mask, .scramble, .deobfuscate, .shuffle, .unshuffle, .entFill], s.curCmd = encode i →
        ∀ x, ¬ InRegion s.bufA s.bufN x → Sparse.read m x = Sparse.read s.bmem x) ∧
      ((∀ i ∈ [Instr.mask, .scramble, .deobfuscate, .shuffle, .unshuffle, .entFill], s.curCmd ≠ encode i) →
        ∀ x, Sparse.read m x = Sparse.read s.bmem x)

/-! ### Registers and flags -/

/-- The register map of 10_state.md with R18, R19, R21 to R24: the data of every legal register read, and its frame (R44). -/
def Obligations.RegisterReadReturnsMapValue : Prop :=
  ∀ (s : State) (off : Nat), off % 4 = 0 → off ≤ 0xFFC →
    s.perform ⟨.reg, off, .w32, .read⟩ = .next { s with replies :=
      (if off = 0x000 then 0 else if off = 0x004 then s.statusWord else if off = 0x008 then s.ctrlWord
       else if off = 0x00C then s.bufAddr else if off = 0x010 then s.bufLen else if off = 0x014 then s.keyAddr
       else if off = 0x018 then s.keyLen else if off = 0x01C then s.seed else if off = 0x020 then s.result
       else if off = 0x024 then 0x46494F07#32 else 0) :: s.replies }

/-- R19: the fields of the STATUS word, reserved bits zero, codes as R98 numbers them. -/
def Obligations.StatusWordHasItsFields : Prop :=
  ∀ s : State, s.statusWord.toNat =
    s.busy.toNat + 2 * s.done.toNat + 4 * s.err.toNat +
    256 * (match s.errCode with | .none => 0 | .illegal => 1 | .range => 2 | .overlap => 3)

/-- R20. -/
def Obligations.StatusWriteClearsSelectedFlags : Prop :=
  ∀ (s : State) (w : Word),
    (s.busy = false → s.perform ⟨.reg, 0x004, .w32, .write w⟩ = .next { s with
      done := s.done && !w.getLsbD 1
      err := s.err && !w.getLsbD 2
      errCode := if w.getLsbD 2 = true then .none else s.errCode }) ∧
    (s.busy = true → Access.held s ⟨.reg, 0x004, .w32, .write w⟩ = true)

/-- R21. -/
def Obligations.CtrlKeepsOnlyInterruptEnable : Prop :=
  State.reset.ie = false ∧
  (∀ s : State, (regRead s 0x008).toNat = s.ie.toNat) ∧
  ∀ (s : State) (w : Word), s.perform ⟨.reg, 0x008, .w32, .write w⟩ = .next { s with ie := w.getLsbD 0 }

/-- R16: an operand register stores all 32 bits of the last host write, and a write to one leaves everything else alone. -/
def Obligations.OperandRegistersStoreWholeWord : Prop :=
  ∀ (s : State) (w : Word),
    s.perform ⟨.reg, 0x00C, .w32, .write w⟩ = .next { s with bufAddr := w } ∧
    s.perform ⟨.reg, 0x010, .w32, .write w⟩ = .next { s with bufLen := w } ∧
    s.perform ⟨.reg, 0x014, .w32, .write w⟩ = .next { s with keyAddr := w } ∧
    s.perform ⟨.reg, 0x018, .w32, .write w⟩ = .next { s with keyLen := w } ∧
    s.perform ⟨.reg, 0x01C, .w32, .write w⟩ = .next { s with seed := w }

/-- R24. -/
def Obligations.ReservedOffsetsReadZeroIgnoreWrites : Prop :=
  ∀ (s : State) (off : Nat), off % 4 = 0 → 0x028 ≤ off → off ≤ 0xFFC →
    s.perform ⟨.reg, off, .w32, .read⟩ = .next { s with replies := 0 :: s.replies } ∧
    ∀ w : Word, s.perform ⟨.reg, off, .w32, .write w⟩ = .next s

/-- R22 and R23: host writes to RESULT and ID are ignored. -/
def Obligations.ResultAndIdIgnoreHostWrites : Prop :=
  ∀ (s : State) (w : Word),
    s.perform ⟨.reg, 0x020, .w32, .write w⟩ = .next s ∧ s.perform ⟨.reg, 0x024, .w32, .write w⟩ = .next s

/-- R30. -/
def Obligations.IrqIsDoneAndEnabled : Prop :=
  (∀ s : State, s.irq = (s.done && s.ie)) ∧ State.reset.irq = false

/-- R64. -/
def Obligations.CmdWriteIsAcceptance : Prop :=
  ∀ (s : State) (w : Word),
    (s.busy = false →
      ∃ t, s.perform ⟨.reg, 0x000, .w32, .write w⟩ = .next t ∧
        t = { s with curCmd := w, done := false, err := false, errCode := .none, busy := true } ∧ t.irq = false) ∧
    (s.busy = true → Access.held s ⟨.reg, 0x000, .w32, .write w⟩ = true)

/-! ### Host accesses -/

/-- R47, R116: with a command running, a legal access other than a STATUS read waits while the engine moves. -/
def Obligations.HeldAccessWaitsForCompletion : Prop :=
  ∀ (s : State) (a : Access) (rest : List Access),
    s.rst = false → s.busy = true → s.pending = a :: rest → a.legal s.cfg = true →
    ¬ (a.space = .reg ∧ a.addr = 0x004 ∧ a.kind = .read) →
    step s = engineStep { s with headStarts := s.headStarts.drop 1, headStartCount := s.headStartCount + 1, hostMoves := 0 } ∧
    ∀ t, step s = .next t → t.pending = a :: rest ∧ t.replies = s.replies ∧ t.busy = false

/-- R47: when the host moves first, a STATUS read is performed while BUSY = 1 and returns BUSY = 1; nothing else changes.
That either agent may move first is the model's choice (log 4). -/
def Obligations.StatusReadIsNotHeld : Prop :=
  ∀ (s : State) (rest : List Access),
    s.rst = false → s.busy = true → s.pending = ⟨.reg, 0x004, .w32, .read⟩ :: rest → s.nextAgent = .host →
    step s = .next { s with pending := rest, replies := s.statusWord :: s.replies, hostMoves := s.hostMoves + 1 } ∧
    s.statusWord.getLsbD 0 = true

/-- R46: with no command running the oldest waiting access is performed, and only it. -/
def Obligations.OldestAccessIsPerformed : Prop :=
  ∀ (s : State) (a : Access) (rest : List Access),
    s.rst = false → s.busy = false → s.pending = a :: rest → step s = State.perform { s with pending := rest } a

/-- R39, R40, R41, R99: exactly the illegal accesses get a bus error, which names the access.
R47's last sentence: the step answers a waiting one at once, while a command runs too when the host moves first (log 4 for who does). -/
def Obligations.BusErrorExactlyForIllegalAccess : Prop :=
  (∀ (s : State) (a : Access),
    (s.perform a = .fault (.busError a.space a.addr a.width)) ↔
      ¬ ((a.space = .reg ∧ a.width = .w32 ∧ a.addr % 4 = 0 ∧ a.addr ≤ 0xFFC) ∨
         (a.space = .bmem ∧ a.width = .w8 ∧ a.addr + 1 ≤ s.cfg.bmemSize) ∨
         (a.space = .bmem ∧ a.width = .w16 ∧ a.addr % 2 = 0 ∧ a.addr + 2 ≤ s.cfg.bmemSize) ∨
         (a.space = .bmem ∧ a.width = .w32 ∧ a.addr % 4 = 0 ∧ a.addr + 4 ≤ s.cfg.bmemSize))) ∧
  (∀ (s : State) (a : Access) (rest : List Access), s.rst = false → s.pending = a :: rest → a.legal s.cfg = false →
    (s.busy = false ∨ s.nextAgent = .host) → step s = .fault (.busError a.space a.addr a.width))

/-- R37, R38: host reads of BMEM are little-endian and change nothing but the reply (R44). -/
def Obligations.HostMemoryReadIsLittleEndian : Prop :=
  ∀ (s : State) (a : Nat) (b0 b1 b2 b3 : Byte), Sparse.read s.bmem a = some b0 →
    (a + 1 ≤ s.cfg.bmemSize →
      s.perform ⟨.bmem, a, .w8, .read⟩ = .next { s with replies := b0.setWidth 32 :: s.replies }) ∧
    (Sparse.read s.bmem (a + 1) = some b1 → a % 2 = 0 → a + 2 ≤ s.cfg.bmemSize →
      s.perform ⟨.bmem, a, .w16, .read⟩ = .next { s with replies := (b1 ++ b0).setWidth 32 :: s.replies }) ∧
    (Sparse.read s.bmem (a + 1) = some b1 → Sparse.read s.bmem (a + 2) = some b2 → Sparse.read s.bmem (a + 3) = some b3 →
      a % 4 = 0 → a + 4 ≤ s.cfg.bmemSize →
      s.perform ⟨.bmem, a, .w32, .read⟩ = .next { s with replies := (b3 ++ b2 ++ b1 ++ b0) :: s.replies })

/-- R37, R38, R40: a legal host write stores byte k of the value at a + k and leaves every other byte and all other state alone. -/
def Obligations.HostMemoryWriteStoresItsBytes : Prop :=
  ∀ (s : State) (a : Nat) (width : Width) (w : Word), a % width.bytes = 0 → a + width.bytes ≤ s.cfg.bmemSize →
    ∃ m : Memory,
      s.perform ⟨.bmem, a, width, .write w⟩ = .next { s with bmem := m } ∧
      (∀ k, k < width.bytes → Sparse.read m (a + k) = some (w.extractLsb' (8 * k) 8)) ∧
      (∀ x, ¬ InRegion a width.bytes x → Sparse.read m x = Sparse.read s.bmem x)

/-- R25, R38, R100: a legal host read of a region with an unwritten byte faults, naming the lowest unwritten byte (log 8). -/
def Obligations.HostReadOfUnwrittenByteFaults : Prop :=
  ∀ (s : State) (a k : Nat) (width : Width), a % width.bytes = 0 → a + width.bytes ≤ s.cfg.bmemSize → k < width.bytes →
    Written s.bmem a k → Sparse.read s.bmem (a + k) = none →
    s.perform ⟨.bmem, a, width, .read⟩ = .fault (.unwrittenRead (a + k))

/-- R109: between commands the block is idle and keeps all its state. -/
def Obligations.IdleBlockKeepsItsState : Prop :=
  ∀ s : State, s.rst = false → s.busy = false → s.pending = [] → step s = .next s

/-! ### Decoding and the engine's step -/

/-- R55, R56: sample words of the opcode map, and words that select no command. -/
def Obligations.SampleWordsDecode : Prop :=
  decode 0x00000000#32 = .ok .nop ∧ decode 0x00000001#32 = .ok .mask ∧ decode 0x00000002#32 = .ok .scramble ∧
  decode 0x00000004#32 = .ok .checksum ∧ decode 0x00000006#32 = .ok .unshuffle ∧ decode 0x00000009#32 = .ok .entSeed ∧
  decode 0x0000000A#32 = .error (.reservedOp 0x0A) ∧ decode 0x000000FF#32 = .error (.reservedOp 0xFF) ∧
  decode 0x00000100#32 = .error .reservedBits ∧ decode 0x80000001#32 = .error .reservedBits

/-- R55: the command words of the opcode map; a word selects a command exactly when it is that command's word
(the mask is 0xFFFFFFFF), and so exactly when its bits 31:8 are zero and bits 7:0 are that command's OP. -/
def Obligations.DecodeAgreesWithEncode : Prop :=
  [Instr.nop, .mask, .scramble, .deobfuscate, .checksum, .shuffle, .unshuffle, .entDraw, .entFill, .entSeed].map encode =
    [0x00#32, 0x01#32, 0x02#32, 0x03#32, 0x04#32, 0x05#32, 0x06#32, 0x07#32, 0x08#32, 0x09#32] ∧
  (∀ (w : Word) (i : Instr), decode w = .ok i ↔ w = encode i) ∧
  (∀ (w : Word) (i : Instr), decode w = .ok i ↔ w.extractLsb' 8 24 = 0 ∧ w.extractLsb' 0 8 = opcode i)

/-- R65, R66: the engine's step performs the command that CUR_CMD selects, whatever is waiting at the ports.
Around it the step counts the command's head start as used. Which agent moves when a waiting access is not held is the model's choice (log 4). -/
def Obligations.StepRunsDecodedCommand : Prop :=
  ∀ (s : State) (i : Instr), s.rst = false → s.busy = true → decode s.curCmd = .ok i →
    (s.pending = [] ∨ (∃ a rest, s.pending = a :: rest ∧ a.held s = true) ∨ s.nextAgent = .engine) →
    step s = exec i { s with headStarts := s.headStarts.drop 1, headStartCount := s.headStartCount + 1, hostMoves := 0 }

/-- R56: an illegal word completes with ERR = 1, ERRCODE = ILLEGAL and has no other effect. -/
def Obligations.IllegalWordEndsWithIllegal : Prop :=
  ∀ s : State, (s.curCmd.extractLsb' 8 24 ≠ 0 ∨ 0x0A ≤ (s.curCmd.extractLsb' 0 8).toNat) →
    engineStep s = .next { s with busy := false, done := true, err := true, errCode := .illegal }

/-! ### Common checks and the life cycle -/

/-- R67 and R68: InRange in unbounded arithmetic, and Overlap as sharing a byte. -/
def Obligations.RegionChecksMeanWhatTheySay : Prop :=
  (∀ (c : Config) (a n : Nat), inRange c a n = true ↔ ∀ x, InRegion a n x → x < c.bmemSize) ∧
  (∀ a1 n1 a2 n2 : Nat, overlap a1 n1 a2 n2 = true ↔ ∃ x, InRegion a1 n1 x ∧ InRegion a2 n2 x)

/-- R70: completion, of every command and of every illegal word, from the flags acceptance left. -/
def Obligations.EveryCommandEndsInCompletion : Prop :=
  ∀ s t : State, Running s → engineStep s = .next t →
    t.busy = false ∧ t.done = true ∧ t.irq = s.ie ∧
    ((t.err = false ∧ t.errCode = .none) ∨ (t.err = true ∧ t.errCode ≠ .none))

/-- R69, R103: an error is precise; the state after it is the state before the command, except for STATUS. -/
def Obligations.CommandErrorChangesOnlyStatus : Prop :=
  ∀ s t : State, Running s → engineStep s = .next t → t.err = true →
    t = { s with busy := false, done := true, err := true, errCode := t.errCode } ∧ t.errCode ≠ .none

/-- R100, R102: a command stops only on an unwritten byte of a region it reads, after all its checks; no command is refused. -/
def Obligations.CommandFaultsOnlyOnUnwrittenBytes : Prop :=
  ∀ (i : Instr) (s : State),
    (∀ r, exec i s ≠ .refused r) ∧
    ∀ f, exec i s = .fault f →
      i ∈ [Instr.mask, .scramble, .deobfuscate, .checksum, .shuffle, .unshuffle] ∧ s.bufN ≠ 0 ∧ s.bufInRange = true ∧
      (i = .mask → s.keyN ≠ 0 ∧ s.keyInRange = true ∧ s.regionsOverlap = false) ∧
      (i = .shuffle ∨ i = .unshuffle → 2 ≤ s.bufN) ∧
      ∃ x, f = .unwrittenRead x ∧ Sparse.read s.bmem x = none ∧
        (InRegion s.bufA s.bufN x ∨ (i = .mask ∧ InRegion s.keyA (min s.keyN s.bufN) x))

/-- R16, R22, R26 to R29 and R54's table: which command may write which state. -/
def Obligations.CommandsWriteOnlyTheirOwnState : Prop :=
  ∀ (i : Instr) (s t : State), exec i s = .next t →
    t.cfg = s.cfg ∧ t.ie = s.ie ∧ t.curCmd = s.curCmd ∧ t.rst = s.rst ∧ t.pending = s.pending ∧ t.replies = s.replies ∧
    t.bufAddr = s.bufAddr ∧ t.bufLen = s.bufLen ∧ t.keyAddr = s.keyAddr ∧ t.keyLen = s.keyLen ∧ t.seed = s.seed ∧
    (i ≠ .checksum → i ≠ .entDraw → t.result = s.result) ∧
    (i ≠ .entSeed → t.pool = s.pool) ∧
    (i ≠ .shuffle → i ≠ .unshuffle → t.lcg = s.lcg) ∧
    (i ≠ .unshuffle → t.trace = s.trace ∧ t.tmp = s.tmp) ∧
    (i ∈ [Instr.nop, .checksum, .entDraw, .entSeed] → t.bmem = s.bmem)

/-- R36, R67, R71: a command's stores stay in the buffer region, and that region then lies in BMEM. -/
def Obligations.StoresStayInTheBufferRegion : Prop :=
  ∀ (i : Instr) (s t : State) (x : Nat), exec i s = .next t →
    Sparse.read t.bmem x ≠ Sparse.read s.bmem x → InRegion s.bufA s.bufN x ∧ s.bufInRange = true ∧ x < s.cfg.bmemSize

/-! ### NOP -/

/-- R72. -/
def Obligations.NopOnlyCompletes : Prop :=
  encode .nop = 0x00000000#32 ∧
  (∀ w : Word, w.extractLsb' 0 8 = 0 → w.extractLsb' 8 24 ≠ 0 → decode w = .error .reservedBits) ∧
  (∀ s : State, exec .nop s = .next { s with busy := false, done := true }) ∧
  (∀ s : State, s.busy = false →
    (s.accept 0).statusWord = 0x00000001#32 ∧ ∃ t, exec .nop (s.accept 0) = .next t ∧ t.statusWord = 0x00000002#32)

/-! ### MASK -/

/-- R75: byte i of the buffer is XORed with key byte i mod KEY_LEN; the frame is all the rest. -/
def Obligations.MaskXorsBufferWithCyclicKey : Prop :=
  ∀ s : State, s.keyN ≠ 0 → s.bufN ≠ 0 → s.bufInRange = true → s.keyInRange = true → s.regionsOverlap = false →
    Written s.bmem s.bufA s.bufN → Written s.bmem s.keyA (min s.keyN s.bufN) →
    ∃ m : Memory,
      exec .mask s = .next { s with bmem := m, busy := false, done := true } ∧
      (∀ i b k, i < s.bufN → Sparse.read s.bmem (s.bufA + i) = some b → Sparse.read s.bmem (s.keyA + i % s.keyN) = some k →
        Sparse.read m (s.bufA + i) = some (b ^^^ k)) ∧
      (∀ x, ¬ InRegion s.bufA s.bufN x → Sparse.read m x = Sparse.read s.bmem x)

/-- R75, R102: the no-op conditions come first, then RANGE on the buffer, RANGE on the key, OVERLAP; nothing else is written. -/
def Obligations.MaskEndsEarlyInTheStatedOrder : Prop :=
  ∀ s : State,
    ((s.keyN = 0 ∨ s.bufN = 0) → exec .mask s = .next { s with busy := false, done := true }) ∧
    (s.keyN ≠ 0 → s.bufN ≠ 0 → (s.cfg.bmemSize < s.bufA + s.bufN ∨ s.cfg.bmemSize < s.keyA + s.keyN) →
      exec .mask s = .next { s with busy := false, done := true, err := true, errCode := .range }) ∧
    (s.keyN ≠ 0 → s.bufN ≠ 0 → s.bufA + s.bufN ≤ s.cfg.bmemSize → s.keyA + s.keyN ≤ s.cfg.bmemSize →
      (∃ x, InRegion s.bufA s.bufN x ∧ InRegion s.keyA s.keyN x) →
      exec .mask s = .next { s with busy := false, done := true, err := true, errCode := .overlap })

/-- R76: a second successful MASK with the same operands restores the buffer, whatever the host did elsewhere in between. -/
def Obligations.MaskIsAnInvolution : Prop :=
  ∀ s t s2 : State, Running s → exec .mask s = .next t → t.err = false → Running s2 →
    s2.cfg = t.cfg → s2.bufAddr = t.bufAddr → s2.bufLen = t.bufLen → s2.keyAddr = t.keyAddr → s2.keyLen = t.keyLen →
    (∀ x, (InRegion s.bufA s.bufN x ∨ InRegion s.keyA s.keyN x) → Sparse.read s2.bmem x = Sparse.read t.bmem x) →
    ∃ u, exec .mask s2 = .next u ∧ u.err = false ∧
      ∀ x, InRegion s.bufA s.bufN x → Sparse.read u.bmem x = Sparse.read s.bmem x

/-! ### SCRAMBLE and DEOBFUSCATE -/

/-- R77 and R79: the byte functions by their closed forms, and DEOBFUSCATE's bijection. -/
def Obligations.ScramblerByteFunctions : Prop :=
  (∀ b : Byte, scrambleByte .rotate b = (b.rotateLeft 3) ||| 0xA5#8) ∧
  (∀ b : Byte, scrambleByte .shift b = (b <<< 3) ||| 0xA0#8 ||| ((b >>> 5) ^^^ 0x05#8)) ∧
  (∀ b : Byte, deobfuscateByte b = (b ^^^ 0xA5#8).rotateRight 3) ∧
  (∀ b : Byte, deobfuscateByte b = (((b ^^^ 0xA5#8) >>> 3) ||| ((b ^^^ 0xA5#8) <<< 5))) ∧
  Function.Bijective deobfuscateByte

/-- R78. -/
def Obligations.ScrambleReplacesBufferBytes : Prop :=
  ∀ s : State, s.bufN ≠ 0 → s.bufInRange = true → Written s.bmem s.bufA s.bufN →
    ∃ m : Memory,
      exec .scramble s = .next { s with bmem := m, busy := false, done := true } ∧
      (∀ i b, i < s.bufN → Sparse.read s.bmem (s.bufA + i) = some b →
        Sparse.read m (s.bufA + i) = some (match s.cfg.scrambleForm with
          | .rotate => (b.rotateLeft 3) ||| ((b.rotateRight 5) ^^^ 0xA5#8)
          | .shift => (b <<< 3) ||| ((b >>> 5) ^^^ 0xA5#8))) ∧
      (∀ x, ¬ InRegion s.bufA s.bufN x → Sparse.read m x = Sparse.read s.bmem x)

/-- R80. -/
def Obligations.DeobfuscateReplacesBufferBytes : Prop :=
  ∀ s : State, s.bufN ≠ 0 → s.bufInRange = true → Written s.bmem s.bufA s.bufN →
    ∃ m : Memory,
      exec .deobfuscate s = .next { s with bmem := m, busy := false, done := true } ∧
      (∀ i b, i < s.bufN → Sparse.read s.bmem (s.bufA + i) = some b →
        Sparse.read m (s.bufA + i) = some (((b ^^^ 0xA5#8).rotateRight 3) ||| ((b ^^^ 0xA5#8).rotateLeft 5))) ∧
      (∀ x, ¬ InRegion s.bufA s.bufN x → Sparse.read m x = Sparse.read s.bmem x)

/-- R78, R80, R102: the no-op and RANGE ends of SCRAMBLE and DEOBFUSCATE. -/
def Obligations.ScramblerEndsEarly : Prop :=
  ∀ (s : State) (i : Instr), i = .scramble ∨ i = .deobfuscate →
    (s.bufN = 0 → exec i s = .next { s with busy := false, done := true }) ∧
    (s.bufN ≠ 0 → s.cfg.bmemSize < s.bufA + s.bufN →
      exec i s = .next { s with busy := false, done := true, err := true, errCode := .range })

/-- R81: the round trips in both orders and under both forms. -/
def Obligations.ScrambleRoundTripRecord : Prop :=
  (∀ b : Byte, deobfuscateByte (scrambleByte .rotate b) = b &&& 0x4B#8) ∧
  (∀ b : Byte, deobfuscateByte (scrambleByte .rotate b) = b ↔ b &&& 0xB4#8 = 0) ∧
  (∀ b : Byte, deobfuscateByte (scrambleByte .shift b) = b &&& 0xEB#8) ∧
  (∀ b : Byte, deobfuscateByte (scrambleByte .shift b) = b ↔ b &&& 0x14#8 = 0) ∧
  (∀ b : Byte, scrambleByte .rotate (deobfuscateByte b) = b ||| 0xA5#8) ∧
  (∀ b : Byte, scrambleByte .rotate (deobfuscateByte b) = b ↔ b &&& 0xA5#8 = 0xA5#8) ∧
  (∀ b : Byte, scrambleByte .shift (deobfuscateByte b) = b ||| 0xA0#8) ∧
  (∀ b : Byte, scrambleByte .shift (deobfuscateByte b) = b ↔ b &&& 0xA0#8 = 0xA0#8)

/-! ### CHECKSUM -/

/-- R83: RESULT is the sum of the bytes modulo 2^32; BMEM and all else are unchanged. -/
def Obligations.ChecksumSumsBufferBytes : Prop :=
  ∀ s : State, s.bufN ≠ 0 → s.bufInRange = true → Written s.bmem s.bufA s.bufN →
    exec .checksum s = .next { s with
      result := BitVec.ofNat 32 ((regionBytes s.bmem s.bufA s.bufN).map BitVec.toNat).sum, busy := false, done := true }

/-- R83, R22: an empty region gives 0 without a range check; on RANGE RESULT keeps its value. -/
def Obligations.ChecksumEndsEarly : Prop :=
  ∀ s : State,
    (s.bufN = 0 → exec .checksum s = .next { s with result := 0, busy := false, done := true }) ∧
    (s.bufN ≠ 0 → s.cfg.bmemSize < s.bufA + s.bufN →
      exec .checksum s = .next { s with busy := false, done := true, err := true, errCode := .range })

/-- R25, R100, R75's last corner case: SCRAMBLE, DEOBFUSCATE, CHECKSUM and UNSHUFFLE fault at the first unwritten byte of the buffer,
MASK where a buffer byte or a used key byte is unwritten, SHUFFLE where a byte that its swap sequence reads is
(R88 reads the two bytes of each pair and no other, so byte 0 may go unread). -/
def Obligations.UnwrittenBufferByteFaults : Prop :=
  (∀ (s : State) (i : Instr) (k : Nat), i = .scramble ∨ i = .deobfuscate ∨ i = .checksum ∨ (i = .unshuffle ∧ 2 ≤ s.bufN) →
    s.bufInRange = true → k < s.bufN → Written s.bmem s.bufA k → Sparse.read s.bmem (s.bufA + k) = none →
    exec i s = .fault (.unwrittenRead (s.bufA + k))) ∧
  (∀ s : State, s.keyN ≠ 0 → s.bufN ≠ 0 → s.bufInRange = true → s.keyInRange = true → s.regionsOverlap = false →
    (∃ k, k < s.bufN ∧ Sparse.read s.bmem (s.bufA + k) = none) ∨
      (∃ k, k < min s.keyN s.bufN ∧ Sparse.read s.bmem (s.keyA + k) = none) →
    ∃ x, exec .mask s = .fault (.unwrittenRead x)) ∧
  (∀ s : State, 2 ≤ s.bufN → s.bufInRange = true →
    (∃ p ∈ swapSeq s.bufN s.seed, Sparse.read s.bmem (s.bufA + p.1) = none ∨ Sparse.read s.bmem (s.bufA + p.2) = none) →
    ∃ x, exec .shuffle s = .fault (.unwrittenRead x))

/-- R84: equal results for regions whose bytes are permutations of each other, and so before and after SHUFFLE and UNSHUFFLE;
[0x01, 0x01] and [0x02, 0x00] collide. -/
def Obligations.ChecksumIgnoresByteOrder : Prop :=
  (∀ s t u v : State, s.bufN = t.bufN → s.bufInRange = true → t.bufInRange = true →
    (regionBytes s.bmem s.bufA s.bufN).Perm (regionBytes t.bmem t.bufA t.bufN) →
    exec .checksum s = .next u → exec .checksum t = .next v → u.result = v.result) ∧
  (∀ (s : State) (i : Instr), i = .shuffle ∨ i = .unshuffle → s.bufInRange = true → Written s.bmem s.bufA s.bufN →
    ∃ t u v, exec i s = .next t ∧ exec .checksum s = .next u ∧ exec .checksum t = .next v ∧ v.result = u.result) ∧
  (∀ s : State, s.bufN = 2 → s.bufInRange = true → Written s.bmem s.bufA 2 →
    regionBytes s.bmem s.bufA 2 = [0x01, 0x01] ∨ regionBytes s.bmem s.bufA 2 = [0x02, 0x00] →
    ∃ u, exec .checksum s = .next u ∧ u.result = 2)

/-! ### SHUFFLE and UNSHUFFLE -/

/-- R85. -/
def Obligations.LcgStepIsExact : Prop :=
  (∀ s : Word, (lcgNext s).toNat = (1103515245 * s.toNat + 12345) % 2 ^ 31) ∧
  (∀ s : Word, lcgNext s = (1103515245#32 * s + 12345#32) &&& 0x7FFFFFFF#32) ∧
  lcgNext 0 = 12345#32 ∧ lcgNext 1 = 1103527590#32 ∧ lcgNext 42 = 1250496027#32 ∧ lcgNext 0xFFFFFFFF#32 = 1043980748#32

/-- R86, R87: the k-th pair is (n-1-k, j) with j the (k+1)-th LCG value modulo n-k. -/
def Obligations.SwapSequenceFollowsTheLcg : Prop :=
  ∀ (n : Nat) (seed : Word), 2 ≤ n →
    (swapSeq n seed).length = n - 1 ∧
    ∀ k, k < n - 1 →
      (swapSeq n seed)[k]? = some (n - 1 - k, (lcgNext^[k + 1] seed).toNat % (n - k)) ∧
      (lcgNext^[k + 1] seed).toNat % (n - k) ≤ n - 1 - k

/-- R88, R86: the swap sequence applied to the buffer; LCG ends at its last advance; SEED and all else are unchanged. -/
def Obligations.ShuffleAppliesTheSwapSequence : Prop :=
  ∀ s : State, 2 ≤ s.bufN → s.bufInRange = true → Written s.bmem s.bufA s.bufN →
    ∃ m : Memory,
      exec .shuffle s = .next { s with bmem := m, lcg := lcgNext^[s.bufN - 1] s.seed, busy := false, done := true } ∧
      (∀ x, x < s.bufN → Sparse.read m (s.bufA + x) =
        applySwapsTo (fun y => Sparse.read s.bmem (s.bufA + y)) (swapSeq s.bufN s.seed) x) ∧
      (∀ x, ¬ InRegion s.bufA s.bufN x → Sparse.read m x = Sparse.read s.bmem x)

/-- R89: with P the swap sequence applied to the identity, byte i goes to position P(i); TRACE, TMP and LCG as the procedure leaves them. -/
def Obligations.UnshuffleScattersThroughTheTrace : Prop :=
  ∀ s : State, 2 ≤ s.bufN → s.bufInRange = true → Written s.bmem s.bufA s.bufN →
    ∃ (m : Memory) (t : Sparse Nat) (u : Sparse Byte),
      exec .unshuffle s = .next { s with
        bmem := m, lcg := lcgNext^[s.bufN - 1] s.seed, trace := t, tmp := u, busy := false, done := true } ∧
      (∀ i, i < s.bufN → Sparse.read m (s.bufA + applySwapsTo id (swapSeq s.bufN s.seed) i) = Sparse.read s.bmem (s.bufA + i)) ∧
      (∀ i, i < s.bufN → Sparse.read t i = some (applySwapsTo id (swapSeq s.bufN s.seed) i)) ∧
      (∀ i, i < s.bufN → Sparse.read u i = Sparse.read m (s.bufA + i)) ∧
      (∀ i, s.bufN ≤ i → Sparse.read t i = Sparse.read s.trace i ∧ Sparse.read u i = Sparse.read s.tmp i) ∧
      (∀ x, ¬ InRegion s.bufA s.bufN x → Sparse.read m x = Sparse.read s.bmem x)

/-- R88, R89, R102: a region shorter than 2 is a no-op, checked before RANGE. -/
def Obligations.PermutationEndsEarly : Prop :=
  ∀ (s : State) (i : Instr), i = .shuffle ∨ i = .unshuffle →
    (s.bufN < 2 → exec i s = .next { s with busy := false, done := true }) ∧
    (2 ≤ s.bufN → s.cfg.bmemSize < s.bufA + s.bufN →
      exec i s = .next { s with busy := false, done := true, err := true, errCode := .range })

/-- R90: SHUFFLE then UNSHUFFLE, and UNSHUFFLE then SHUFFLE, restore the region byte for byte, whatever the host did elsewhere in between;
each keeps the multiset of the region's bytes, and so CHECKSUM's result. -/
def Obligations.ShuffleAndUnshuffleAreInverse : Prop :=
  ∀ (s : State) (i j : Instr), (i = .shuffle ∧ j = .unshuffle) ∨ (i = .unshuffle ∧ j = .shuffle) →
    2 ≤ s.bufN → s.bufInRange = true → Written s.bmem s.bufA s.bufN →
    ∃ t, exec i s = .next t ∧
      (regionBytes t.bmem s.bufA s.bufN).Perm (regionBytes s.bmem s.bufA s.bufN) ∧
      (∃ c d, exec .checksum s = .next c ∧ exec .checksum t = .next d ∧ d.result = c.result) ∧
      ∀ s2 : State, s2.cfg = t.cfg → s2.bufAddr = t.bufAddr → s2.bufLen = t.bufLen → s2.seed = t.seed →
        (∀ x, InRegion s.bufA s.bufN x → Sparse.read s2.bmem x = Sparse.read t.bmem x) →
        ∃ u, exec j s2 = .next u ∧ ∀ x, InRegion s.bufA s.bufN x → Sparse.read u.bmem x = Sparse.read s.bmem x

/-- R91. -/
def Obligations.SeedsDifferingInBit31AreEquivalent : Prop :=
  (∀ s : Word, lcgNext (s ^^^ 0x80000000#32) = lcgNext s ∧ (lcgNext s).toNat < 2 ^ 31) ∧
  (∀ (n : Nat) (s : Word), swapSeq n (s ^^^ 0x80000000#32) = swapSeq n s) ∧
  (∀ (s t : State) (i : Instr), i = .shuffle ∨ i = .unshuffle → exec i s = .next t →
    exec i { s with seed := s.seed ^^^ 0x80000000#32 } = .next { t with seed := s.seed ^^^ 0x80000000#32 }) ∧
  lcgNext 0 = 12345#32 ∧ lcgNext 0x80000000#32 = 12345#32

/-! ### Entropy -/

/-- R93: RESULT is the next weak draw, whichever value it has; a value from a test source (R31) is the draw. -/
def Obligations.EntDrawWritesTheDraw : Prop :=
  encode .entDraw = 0x00000007#32 ∧
  (∀ s : State, exec .entDraw s = .next { s with
    result := s.weakDraw 0, weakIn := s.weakIn.drop 1, weakCount := s.weakCount + 1, busy := false, done := true }) ∧
  (∀ (s : State) (w : Word) (ws : List Word), s.weakIn = w :: ws → s.weakDraw 0 = w)

/-- R94: byte k is the low byte of the k-th draw; the old contents are not read; RESULT and all else are unchanged.
One draw per byte: draw k is the k-th value of a test source (R31), and past its end the free value of its own index (log 3). -/
def Obligations.EntFillWritesLowBytesOfDraws : Prop :=
  (∀ s : State, s.bufN ≠ 0 → s.bufInRange = true →
    ∃ m : Memory,
      exec .entFill s = .next { s with
        bmem := m, weakIn := s.weakIn.drop s.bufN, weakCount := s.weakCount + s.bufN, busy := false, done := true } ∧
      (∀ k, k < s.bufN → Sparse.read m (s.bufA + k) = some ((s.weakDraw k).extractLsb' 0 8)) ∧
      (∀ x, ¬ InRegion s.bufA s.bufN x → Sparse.read m x = Sparse.read s.bmem x)) ∧
  (∀ (s : State) (k : Nat) (w : Word), s.weakIn[k]? = some w → s.weakDraw k = w) ∧
  (∀ (s : State) (k : Nat), s.weakIn.length ≤ k → s.weakDraw k = Config.weakDraw (s.weakCount + k))

/-- R94, R102: the no-op and RANGE ends of ENT_FILL take no draw. -/
def Obligations.EntFillEndsEarly : Prop :=
  ∀ s : State,
    (s.bufN = 0 → exec .entFill s = .next { s with busy := false, done := true }) ∧
    (s.bufN ≠ 0 → s.cfg.bmemSize < s.bufA + s.bufN →
      exec .entFill s = .next { s with busy := false, done := true, err := true, errCode := .range })

/-- R95: POOL becomes pool_mix of itself, SEED and one jitter draw, whichever value that has; nothing else changes. -/
def Obligations.EntSeedMixesThePool : Prop :=
  encode .entSeed = 0x00000009#32 ∧
  (∀ s : State, exec .entSeed s = .next { s with
    pool := Config.poolMix s.pool s.seed s.jitterDraw, jitterIn := s.jitterIn.drop 1, jitterCount := s.jitterCount + 1,
    busy := false, done := true }) ∧
  (∀ (s : State) (j : Word) (js : List Word), s.jitterIn = j :: js → s.jitterDraw = j)

/-- R96: two states that differ only in POOL go on alike in everything but POOL, for any accesses and draws and any number of steps. -/
def Obligations.PoolIsUnobservable : Prop :=
  ∀ (k : Nat) (s : State) (p : Pool),
    SameButPool (runSteps k s) (runSteps k { s with pool := p })

/-! ### The whole machine -/

/-- R5, R7, R19, R111: the state after reset, with any admitted configuration, satisfies the invariant. -/
def Obligations.ResetSatisfiesInvariant : Prop :=
  BlockInv State.reset ∧ ∀ c : Config, c.wellFormed = true → BlockInv (State.resetWith c)

/-- R19, R25, R28, R36, R91: from every state that satisfies the invariant, every step keeps it. -/
def Obligations.StepKeepsInvariant : Prop :=
  ∀ s t : State, BlockInv s → step s = .next t → BlockInv t

/-- R65, R117, weak fairness: a running command completes after finitely many steps unless the run faults:
with the accesses already waiting; whatever accesses the host issues before each step; and under every host program.
The bounds are the model's: a finite queue (log 7) and a finite free head start of the host (log 4). -/
def Obligations.RunningCommandCompletes : Prop :=
  (∀ s : State, s.rst = false → s.busy = true →
    ∃ k, k ≤ s.pending.length + 1 ∧ CompletedOrFault (runSteps k s)) ∧
  (∀ (s : State) (issued : Nat → List Access), s.rst = false → s.busy = true →
    ∃ k, k ≤ s.headStart - s.hostMoves + 1 ∧ CompletedOrFault (runIssuing issued k s)) ∧
  (∀ y : System, y.block.rst = false → y.block.busy = true →
    ∃ k, k ≤ y.block.headStart - y.block.hostMoves + 1 ∧ SystemCompletedOrFault (runSystem k y))

/-! ### The host program language -/

/-- R60: the expansions of the pseudo-statements. -/
def Obligations.PseudoStatementsExpand : Prop :=
  (∀ l, Source.lines l (.cmd "OBFUSCATE") = Source.lines l (.cmd "SCRAMBLE")) ∧
  (∀ l, Source.lines l .wait =
    .ok [.label l, .access ⟨.reg, 0x004, .w32, .read⟩ (some 9), .branch true 9 1 l]) ∧
  (∀ l, Source.lines l .clr = Source.lines l (.wr "STATUS" 6)) ∧
  (∀ l m, Source.lines l (.run m) = Source.both (Source.lines l (.cmd m)) (Source.lines l .wait)) ∧
  (∀ l a n, Source.lines l (.buf a n) = Source.both (Source.lines l (.wr "BUF_ADDR" a)) (Source.lines l (.wr "BUF_LEN" n))) ∧
  (∀ l a n, Source.lines l (.key a n) = Source.both (Source.lines l (.wr "KEY_ADDR" a)) (Source.lines l (.wr "KEY_LEN" n))) ∧
  (∀ l a b, Source.lines l (.bytes a [b]) = Source.lines l (.store .w8 a b)) ∧
  (∀ l a b bs, Source.lines l (.bytes a (b :: bs)) =
    Source.both (Source.lines l (.store .w8 a b)) (Source.lines l (.bytes (a + 1) bs)))

/-- R61: what an assembler must refuse, for every name outside the spec's lists (R55, R59, R60, the register map) and every value,
and what the names within them stand for; every other statement with numbers that fit is taken, as the line R59 gives it,
a misaligned load among them (R61 names stores only), and so is every program of statements that are taken.
A raw command word is not refused. A bytes statement without a byte is taken as no lines: the model's choice (log 10).
That a mnemonic in mixed case is outside the list, and that R61's width applies to addresses and masks too, is the model's reading (log 10). -/
def Obligations.AssemblerRefusesWhatItMust : Prop :=
  (∀ l, ∀ p ∈ specMnemonics, Source.lines l (.cmd p.1) = .ok [.access ⟨.reg, 0x000, .w32, .write p.2⟩ none]) ∧
  (∀ l m, m ∉ specMnemonics.map Prod.fst →
    Source.lines l (.cmd m) = .error .unknownMnemonic ∧ Source.lines l (.run m) = .error .unknownMnemonic) ∧
  (∀ l t v, ∀ p ∈ specRegisters, v < 2 ^ 32 →
    Source.lines l (.wr p.1 v) = .ok [.access ⟨.reg, p.2, .w32, .write (BitVec.ofNat 32 v)⟩ none] ∧
    Source.lines l (.rd t p.1) = .ok [.access ⟨.reg, p.2, .w32, .read⟩ (some t)]) ∧
  (∀ l t r v, r ∉ specRegisters.map Prod.fst →
    Source.lines l (.wr r v) = .error .unknownRegister ∧ Source.lines l (.rd t r) = .error .unknownRegister) ∧
  (∀ l r v, r ∈ specRegisters.map Prod.fst → 2 ^ 32 ≤ v → Source.lines l (.wr r v) = .error .valueTooWide) ∧
  (∀ l v, 2 ^ 32 ≤ v → Source.lines l (.cmdRaw v) = .error .valueTooWide) ∧
  (∀ l width a v, 2 ^ 32 ≤ a ∨ 2 ^ 32 ≤ v → Source.lines l (.store width a v) = .error .valueTooWide) ∧
  (∀ l a n, 2 ^ 32 ≤ a ∨ 2 ^ 32 ≤ n →
    Source.lines l (.buf a n) = .error .valueTooWide ∧ Source.lines l (.key a n) = .error .valueTooWide) ∧
  (∀ l a bs, (∃ k b, bs[k]? = some b ∧ (2 ^ 32 ≤ a + k ∨ 2 ^ 32 ≤ b)) → Source.lines l (.bytes a bs) = .error .valueTooWide) ∧
  (∀ l width t a, 2 ^ 32 ≤ a → Source.lines l (.load width t a) = .error .valueTooWide) ∧
  (∀ l t m k, 2 ^ 32 ≤ m →
    Source.lines l (.bnz t m k) = .error .valueTooWide ∧ Source.lines l (.bz t m k) = .error .valueTooWide) ∧
  (∀ l a v, a < 2 ^ 32 → v < 2 ^ 32 → a % 2 ≠ 0 → Source.lines l (.store .w16 a v) = .error .misalignedStore) ∧
  (∀ l a v, a < 2 ^ 32 → v < 2 ^ 32 → a % 4 ≠ 0 → Source.lines l (.store .w32 a v) = .error .misalignedStore) ∧
  (∀ l width a v, a < 2 ^ 32 → v < 2 ^ 32 → a % width.bytes = 0 →
    Source.lines l (.store width a v) = .ok [.access ⟨.bmem, a, width, .write (BitVec.ofNat 32 v)⟩ none]) ∧
  (∀ l v, v < 2 ^ 32 →
    Source.lines l (.cmdRaw v) = .ok [.access ⟨.reg, 0x000, .w32, .write (BitVec.ofNat 32 v)⟩ none]) ∧
  (∀ l width t a, a < 2 ^ 32 → Source.lines l (.load width t a) = .ok [.access ⟨.bmem, a, width, .read⟩ (some t)]) ∧
  (∀ l t m k, m < 2 ^ 32 →
    Source.lines l (.bnz t m k) = .ok [.branch true t (BitVec.ofNat 32 m) k] ∧
    Source.lines l (.bz t m k) = .ok [.branch false t (BitVec.ofNat 32 m) k]) ∧
  (∀ l a bs, (∀ k b, bs[k]? = some b → a + k < 2 ^ 32 ∧ b < 2 ^ 32) →
    Source.lines l (.bytes a bs) =
      .ok (bs.zipIdx.map fun p => .access ⟨.bmem, a + p.2, .w8, .write (BitVec.ofNat 32 p.1)⟩ none)) ∧
  (∀ l k, Source.lines l (.label k) = .ok [.label k]) ∧
  (∀ ps, ∀ p ∈ ps, (∀ l, ∃ e, Source.lines l p = .error e) → ∃ e, assemble ps = .error e) ∧
  (∀ ps, (∀ p ∈ ps, ∀ l, ∃ ls, Source.lines l p = .ok ls) → ∃ ls, assemble ps = .ok ls)
end

