-- ==== Sys2Proof/Laws/Sparse.lean ====
section
/-! SUPPORT. The laws of arrays: read after write, the canonical form, the two loops. -/

namespace Sys2Proof.Machine

namespace Sparse

variable {α : Type}

@[simp] theorem read_nil (a : Nat) : read ([] : Sparse α) a = none := rfl

theorem read_write (m : Sparse α) (a b : Nat) (v : α) :
    read (write m a v) b = if a = b then some v else read m b := by
  induction m with
  | nil => simp [write, read]
  | cons c m ih =>
    obtain ⟨k, w⟩ := c
    simp only [write]
    split
    · simp [read]
    · split
      · subst_vars; simp only [read]; split <;> rfl
      · simp only [read, ih]
        by_cases hk : k = b
        · subst hk; simp_all
        · simp [hk]

@[simp] theorem read_write_self (m : Sparse α) (a : Nat) (v : α) : read (write m a v) a = some v := by
  simp [read_write]

@[simp] theorem read_write_ne (m : Sparse α) {a b : Nat} (v : α) (h : a ≠ b) : read (write m a v) b = read m b := by
  simp [read_write, h]

theorem fetch_ok {m : Sparse α} {a : Nat} {v : α} : fetch m a = .ok v ↔ read m a = some v := by
  unfold fetch; split <;> simp_all

theorem fetch_error {m : Sparse α} {a x : Nat} : fetch m a = .error x ↔ x = a ∧ read m a = none := by
  unfold fetch
  cases h : read m a <;> simp [eq_comm]

theorem fetch_congr {m m' : Sparse α} {a : Nat} (h : read m a = read m' a) : fetch m a = fetch m' a := by
  simp [fetch, h]

theorem mem_of_read {m : Sparse α} {a : Nat} {v : α} (h : read m a = some v) : (a, v) ∈ m := by
  induction m with
  | nil => simp at h
  | cons c m ih =>
    obtain ⟨k, w⟩ := c
    simp only [read] at h
    split at h
    · subst_vars; simp_all
    · exact List.mem_cons_of_mem _ (ih h)

theorem mem_write {m : Sparse α} {a : Nat} {v : α} {c : Nat × α} (h : c ∈ write m a v) : c = (a, v) ∨ c ∈ m := by
  induction m with
  | nil => simpa [write] using h
  | cons d m ih =>
    obtain ⟨k, w⟩ := d
    simp only [write] at h
    split at h
    · simpa using h
    · split at h
      · rcases List.mem_cons.1 h with h | h
        · exact .inl h
        · exact .inr (List.mem_cons_of_mem _ h)
      · rcases List.mem_cons.1 h with h | h
        · exact .inr (h ▸ List.mem_cons_self ..)
        · exact (ih h).imp_right (List.mem_cons_of_mem _)

/-- A write keeps the canonical form. -/
theorem wf_write {m : Sparse α} (a : Nat) (v : α) (h : wf m) : wf (write m a v) := by
  induction m with
  | nil => simp [wf, write]
  | cons d m ih =>
    obtain ⟨k, w⟩ := d
    have hd := List.pairwise_cons.1 h
    simp only [write]
    split
    · rename_i hlt
      refine List.pairwise_cons.2 ⟨fun c hc => ?_, h⟩
      rcases List.mem_cons.1 hc with rfl | hc
      · exact hlt
      · exact Nat.lt_trans hlt (hd.1 c hc)
    · split
      · subst_vars; exact List.pairwise_cons.2 hd
      · refine List.pairwise_cons.2 ⟨fun c hc => ?_, ih hd.2⟩
        rcases mem_write hc with rfl | hc
        · simp only at *; omega
        · exact hd.1 c hc

/-- Forgetting a region keeps the canonical form. -/
theorem wf_forget {m : Sparse α} (a n : Nat) (h : wf m) : wf (forget m a n) := h.filter _

theorem mem_of_mem_forget {m : Sparse α} {a n : Nat} {c : Nat × α} (h : c ∈ forget m a n) : c ∈ m :=
  (List.mem_filter.1 h).1

theorem read_forget (m : Sparse α) (a n x : Nat) :
    read (forget m a n) x = if a ≤ x ∧ x < a + n then none else read m x := by
  unfold forget
  induction m with
  | nil => simp
  | cons c m ih =>
    obtain ⟨k, w⟩ := c
    rw [List.filter_cons]
    by_cases hk : k = x
    · subst hk
      by_cases hx : a ≤ k ∧ k < a + n
      · simpa [hx] using ih
      · simp [hx, read]
    · by_cases hin : a ≤ k ∧ k < a + n
      · simpa [hin, read, hk] using ih
      · simpa [hin, read, hk] using ih

theorem read_none_of_lt {m : Sparse α} {a : Nat} (h : ∀ c ∈ m, a < c.1) : read m a = none := by
  induction m with
  | nil => rfl
  | cons c m ih =>
    obtain ⟨k, w⟩ := c
    have := h _ (List.mem_cons_self ..)
    simp only [read, if_neg (by simp only at this; omega : k ≠ a)]
    exact ih fun d hd => h d (List.mem_cons_of_mem _ hd)

/-- Equal reads in canonical form are equal data. -/
theorem ext_of_wf {m m' : Sparse α} (h : wf m) (h' : wf m') (hr : ∀ a, read m a = read m' a) : m = m' := by
  induction m generalizing m' with
  | nil =>
    cases m' with
    | nil => rfl
    | cons c m' => obtain ⟨k, w⟩ := c; simpa [read] using hr k
  | cons c m ih =>
    obtain ⟨k, w⟩ := c
    have hc := List.pairwise_cons.1 h
    cases m' with
    | nil => simpa [read] using hr k
    | cons c' m' =>
      obtain ⟨k', w'⟩ := c'
      have hc' := List.pairwise_cons.1 h'
      have hk : k = k' := by
        rcases Nat.lt_trichotomy k k' with hlt | heq | hgt
        · have := hr k
          rw [read, if_pos rfl, read_none_of_lt (by
            intro d hd
            rcases List.mem_cons.1 hd with rfl | hd
            · exact hlt
            · exact Nat.lt_trans hlt (hc'.1 d hd))] at this
          simp at this
        · exact heq
        · have := hr k'
          rw [read_none_of_lt (by
            intro d hd
            rcases List.mem_cons.1 hd with rfl | hd
            · exact hgt
            · exact Nat.lt_trans hgt (hc.1 d hd)), read, if_pos rfl] at this
          simp at this
      subst hk
      have hw : w = w' := by simpa [read] using hr k
      subst hw
      congr 1
      refine ih hc.2 hc'.2 fun a => ?_
      by_cases ha : k = a
      · subst ha; rw [read_none_of_lt hc.1, read_none_of_lt hc'.1]
      · simpa [read, ha] using hr a

/-! ### The store loop -/

/-- Everything a finished store loop can do: what a step of it keeps, the loop keeps. -/
theorem storeLoop_induct {body : Sparse α → Nat → Except Nat (Nat × α)} {P : Sparse α → Prop} {n i0 : Nat} {m m' : Sparse α}
    (hs : ∀ m i k v, i0 ≤ i → i < i0 + n → P m → body m i = .ok (k, v) → P (write m k v))
    (hm : P m) (h : storeLoop body n i0 m = .ok m') : P m' := by
  induction n generalizing i0 m with
  | zero => cases h; exact hm
  | succ n ih =>
    simp only [storeLoop] at h
    split at h
    · cases h
    · rename_i k v hb
      exact ih (fun m i k v h1 h2 => hs m i k v (by omega) (by omega)) (hs m i0 k v (by omega) (by omega) hm hb) h

theorem storeLoop_wf {body : Sparse α → Nat → Except Nat (Nat × α)} {n i0 : Nat} {m m' : Sparse α}
    (hm : wf m) (h : storeLoop body n i0 m = .ok m') : wf m' :=
  storeLoop_induct (fun _ _ k v _ _ hw _ => wf_write k v hw) hm h

/-- The frame of a store loop: an index that no iteration stores to reads as before. -/
theorem storeLoop_read_of_ne {body : Sparse α → Nat → Except Nat (Nat × α)} {n i0 : Nat} {m m' : Sparse α} {x : Nat}
    (ht : ∀ m i k v, i0 ≤ i → i < i0 + n → body m i = .ok (k, v) → k ≠ x)
    (h : storeLoop body n i0 m = .ok m') : read m' x = read m x :=
  storeLoop_induct (P := fun m'' => read m'' x = read m x)
    (fun m i k v h1 h2 hp hb => by rw [read_write_ne _ _ (ht m i k v h1 h2 hb), hp]) rfl h

/-- A store loop that stops stops at one of its iterations, in an array the earlier ones led to. -/
theorem storeLoop_error {body : Sparse α → Nat → Except Nat (Nat × α)} {P : Nat → Sparse α → Prop} {n i0 e : Nat} {m : Sparse α}
    (hs : ∀ m i k v, i0 ≤ i → i < i0 + n → P i m → body m i = .ok (k, v) → P (i + 1) (write m k v))
    (hm : P i0 m) (h : storeLoop body n i0 m = .error e) :
    ∃ i m'', i0 ≤ i ∧ i < i0 + n ∧ P i m'' ∧ body m'' i = .error e := by
  induction n generalizing i0 m with
  | zero => simp [storeLoop] at h
  | succ n ih =>
    simp only [storeLoop] at h
    split at h
    · rename_i x hb
      cases h
      exact ⟨i0, m, by omega, by omega, hm, hb⟩
    · rename_i k v hb
      obtain ⟨i, m'', h1, h2, h3⟩ := ih (fun m i k v h1 h2 => hs m i k v (by omega) (by omega))
        (hs m i0 k v (by omega) (by omega) hm hb) h
      exact ⟨i, m'', by omega, by omega, h3⟩

/-- A store loop over the region (a, n) whose i-th iteration, in an array where only the entries before a + i
have changed, stores `val i` at a + i. -/
theorem storeLoop_region {body : Sparse α → Nat → Except Nat (Nat × α)} {a n : Nat} {val : Nat → α} (m0 : Sparse α)
    (hb : ∀ i m, i < n → (∀ x, ¬ InRegion a i x → read m x = read m0 x) → body m i = .ok (a + i, val i)) :
    ∃ m', storeLoop body n 0 m0 = .ok m' ∧ (∀ i, i < n → read m' (a + i) = some (val i)) ∧
      (∀ x, ¬ InRegion a n x → read m' x = read m0 x) := by
  suffices H : ∀ r i0 m, i0 + r = n → (∀ i, i < i0 → read m (a + i) = some (val i)) →
      (∀ x, ¬ InRegion a i0 x → read m x = read m0 x) →
      ∃ m', storeLoop body r i0 m = .ok m' ∧ (∀ i, i < n → read m' (a + i) = some (val i)) ∧
        (∀ x, ¬ InRegion a n x → read m' x = read m0 x) from
    H n 0 m0 (by omega) (fun i hi => absurd hi (by omega)) (fun _ _ => rfl)
  intro r
  induction r with
  | zero =>
    intro i0 m hn hv hf
    obtain rfl : i0 = n := by omega
    exact ⟨m, rfl, hv, hf⟩
  | succ r ih =>
    intro i0 m hn hv hf
    simp only [storeLoop, hb i0 m (by omega) hf]
    refine ih (i0 + 1) _ (by omega) (fun i hi => ?_) (fun x hx => ?_)
    · by_cases h : i = i0
      · subst h; simp
      · rw [read_write_ne _ _ (by omega)]; exact hv i (by omega)
    · have h : a + i0 ≠ x := by rintro rfl; exact hx ⟨by omega, by omega⟩
      rw [read_write_ne _ _ h]
      exact hf x fun hr => hx ⟨hr.1, by have := hr.2; omega⟩

/-! ### Swaps -/

theorem swap_eq_ok {base : Nat} {m m' : Sparse α} {i j : Nat} :
    swap base m i j = .ok m' ↔ ∃ x y, read m (base + i) = some x ∧ read m (base + j) = some y ∧
      m' = write (write m (base + i) y) (base + j) x := by
  unfold swap
  split
  · rename_i x y hx hy
    rw [fetch_ok] at hx hy
    constructor
    · intro h; cases h; exact ⟨x, y, hx, hy, rfl⟩
    · rintro ⟨x', y', hx', hy', rfl⟩
      simp_all
  · rename_i e hx
    rw [fetch_error] at hx
    simp [hx.2]
  · rename_i e hx hy
    rw [fetch_error] at hy
    simp [hy.2]

theorem swap_eq_error {base : Nat} {m : Sparse α} {i j e : Nat} (h : swap base m i j = .error e) :
    read m e = none ∧ (e = base + i ∨ e = base + j) := by
  unfold swap at h
  split at h
  · cases h
  · rename_i x hx
    cases h
    rw [fetch_error] at hx
    exact ⟨hx.1 ▸ hx.2, .inl hx.1⟩
  · rename_i x hx hy
    cases h
    rw [fetch_error] at hy
    exact ⟨hy.1 ▸ hy.2, .inr hy.1⟩

/-- A swap, read back: the two entries are exchanged and the rest is kept. -/
theorem read_swap {base : Nat} {m m' : Sparse α} {i j : Nat} (h : swap base m i j = .ok m') (z : Nat) :
    read m' (base + z) = swapAt (fun y => read m (base + y)) (i, j) z := by
  obtain ⟨x, y, hx, hy, rfl⟩ := swap_eq_ok.1 h
  simp only [swapAt, read_write]
  by_cases hj : j = z
  · subst hj; by_cases hij : i = j
    · subst hij; simp_all
    · simp [hx, Ne.symm hij]
  · by_cases hi : i = z
    · subst hi; simp [hj, hy]
    · simp [hj, hi, Ne.symm hi, Ne.symm hj]

theorem swap_wf {base : Nat} {m m' : Sparse α} {i j : Nat} (hm : wf m) (h : swap base m i j = .ok m') : wf m' := by
  obtain ⟨x, y, -, -, rfl⟩ := swap_eq_ok.1 h
  exact wf_write _ _ (wf_write _ _ hm)

/-- What every swap of a list keeps, ApplySwaps keeps. -/
theorem applySwaps_induct {base : Nat} {P : Sparse α → Prop} {l : List (Nat × Nat)} {m m' : Sparse α}
    (hs : ∀ p ∈ l, ∀ m m', P m → swap base m p.1 p.2 = .ok m' → P m') (hm : P m)
    (h : applySwaps base l m = .ok m') : P m' := by
  induction l generalizing m with
  | nil => cases h; exact hm
  | cons p l ih =>
    obtain ⟨i, j⟩ := p
    simp only [applySwaps] at h
    split at h
    · cases h
    · rename_i m1 h1
      exact ih (fun p hp => hs p (List.mem_cons_of_mem _ hp)) (hs (i, j) (List.mem_cons_self ..) m m1 hm h1) h

/-- ApplySwaps that stops stops at a swap of the list, in an array the earlier ones led to. -/
theorem applySwaps_error {base : Nat} {P : Sparse α → Prop} {l : List (Nat × Nat)} {m : Sparse α} {e : Nat}
    (hs : ∀ p ∈ l, ∀ m m', P m → swap base m p.1 p.2 = .ok m' → P m') (hm : P m)
    (h : applySwaps base l m = .error e) : ∃ p ∈ l, ∃ m'', P m'' ∧ swap base m'' p.1 p.2 = .error e := by
  induction l generalizing m with
  | nil => simp [applySwaps] at h
  | cons p l ih =>
    obtain ⟨i, j⟩ := p
    simp only [applySwaps] at h
    split at h
    · rename_i x hx
      cases h
      exact ⟨(i, j), List.mem_cons_self .., m, hm, hx⟩
    · rename_i m1 h1
      obtain ⟨p, hp, r⟩ := ih (fun p hp => hs p (List.mem_cons_of_mem _ hp)) (hs (i, j) (List.mem_cons_self ..) m m1 hm h1) h
      exact ⟨p, List.mem_cons_of_mem _ hp, r⟩

theorem applySwaps_wf {base : Nat} {l : List (Nat × Nat)} {m m' : Sparse α} (hm : wf m)
    (h : applySwaps base l m = .ok m') : wf m' :=
  applySwaps_induct (fun _ _ _ _ hw h => swap_wf hw h) hm h

/-- ApplySwaps, read back. -/
theorem read_applySwaps {base : Nat} {l : List (Nat × Nat)} {m m' : Sparse α}
    (h : applySwaps base l m = .ok m') (z : Nat) :
    read m' (base + z) = applySwapsTo (fun y => read m (base + y)) l z := by
  induction l generalizing m with
  | nil => cases h; rfl
  | cons p l ih =>
    obtain ⟨i, j⟩ := p
    simp only [applySwaps] at h
    split at h
    · cases h
    · rename_i m1 h1
      rw [ih h]
      simp only [applySwapsTo, List.foldl_cons]
      rw [show (fun y => read m1 (base + y)) = swapAt (fun y => read m (base + y)) (i, j) from funext (read_swap h1)]

/-- The frame of ApplySwaps on the region (base, n). -/
theorem applySwaps_read_outside {base n : Nat} {l : List (Nat × Nat)} {m m' : Sparse α}
    (hl : ∀ p ∈ l, p.1 < n ∧ p.2 < n) (h : applySwaps base l m = .ok m') {x : Nat} (hx : ¬ InRegion base n x) :
    read m' x = read m x := by
  refine applySwaps_induct (P := fun m'' => read m'' x = read m x) (fun p hp m1 m2 h1 h2 => ?_) rfl h
  obtain ⟨v, w, -, -, rfl⟩ := swap_eq_ok.1 h2
  have := hl p hp
  rw [read_write_ne, read_write_ne, h1]
  · rintro rfl; exact hx ⟨by omega, by omega⟩
  · rintro rfl; exact hx ⟨by omega, by omega⟩

theorem swap_written {base n : Nat} {m m' : Sparse α} {i j : Nat}
    (hw : ∀ z, z < n → ∃ v, read m (base + z) = some v) (h : swap base m i j = .ok m') :
    ∀ z, z < n → ∃ v, read m' (base + z) = some v := by
  intro z hz
  obtain ⟨x, y, -, -, rfl⟩ := swap_eq_ok.1 h
  simp only [read_write]
  split
  · exact ⟨_, rfl⟩
  · split
    · exact ⟨_, rfl⟩
    · exact hw z hz

/-- ApplySwaps finishes where every entry below n is present. -/
theorem applySwaps_ok {base n : Nat} {l : List (Nat × Nat)} {m : Sparse α} (hl : ∀ p ∈ l, p.1 < n ∧ p.2 < n)
    (hw : ∀ z, z < n → ∃ v, read m (base + z) = some v) : ∃ m', applySwaps base l m = .ok m' := by
  cases h : applySwaps base l m with
  | ok m' => exact ⟨m', rfl⟩
  | error e =>
    obtain ⟨p, hp, m'', hw', he⟩ := applySwaps_error
      (P := fun m => ∀ z, z < n → ∃ v, read m (base + z) = some v) (fun _ _ _ _ hw h => swap_written hw h) hw h
    obtain ⟨hn, he⟩ := swap_eq_error he
    rcases he with rfl | rfl
    · obtain ⟨v, hv⟩ := hw' p.1 (hl p hp).1; simp [hv] at hn
    · obtain ⟨v, hv⟩ := hw' p.2 (hl p hp).2; simp [hv] at hn

end Sparse

/-! ### Multi-byte host accesses -/

/-- A host write keeps the canonical form. -/
theorem memWrite_wf {m : Memory} (a n : Nat) (v : Word) (h : Memory.wf m) : Memory.wf (memWrite m a n v) := by
  induction n generalizing m a v with
  | zero => exact h
  | succ n ih => exact ih _ _ (Sparse.wf_write _ _ h)

theorem mem_memWrite {m : Memory} {a n : Nat} {v : Word} {c : Nat × Byte} (h : c ∈ memWrite m a n v) :
    c ∈ m ∨ InRegion a n c.1 := by
  induction n generalizing m a v with
  | zero => exact .inl h
  | succ n ih =>
    rcases ih h with h | h
    · rcases Sparse.mem_write h with rfl | h
      · exact .inr ⟨by simp, by simp⟩
      · exact .inl h
    · exact .inr ⟨by have := h.1; omega, by have := h.2; omega⟩

/-- The frame of a host write. -/
theorem read_memWrite_outside (m : Memory) (a n : Nat) (v : Word) {x : Nat} (hx : ¬ InRegion a n x) :
    Sparse.read (memWrite m a n v) x = Sparse.read m x := by
  induction n generalizing m a v with
  | zero => rfl
  | succ n ih =>
    rw [memWrite, ih, Sparse.read_write_ne]
    · rintro rfl; exact hx ⟨by omega, by omega⟩
    · intro h; exact hx ⟨by have := h.1; omega, by have := h.2; omega⟩

end Sys2Proof.Machine
end

