-- ==== Sys2Proof/Laws/Permutation.lean ====
section
/-! SUPPORT. The laws of the swap sequence and of UNSHUFFLE's arrays. -/

namespace Sys2Proof.Machine

/-! ### Swaps on functions -/

theorem applySwapsTo_nil {α : Type} (f : Nat → α) : applySwapsTo f [] = f := rfl

theorem applySwapsTo_cons {α : Type} (f : Nat → α) (p : Nat × Nat) (l : List (Nat × Nat)) :
    applySwapsTo f (p :: l) = applySwapsTo (swapAt f p) l := rfl

theorem swapAt_comp {α β : Type} (f : α → β) (g : Nat → α) (p : Nat × Nat) :
    swapAt (fun x => f (g x)) p = fun x => f (swapAt g p x) := by
  funext x; simp only [swapAt]; split <;> [rfl; split <;> rfl]

theorem applySwapsTo_comp {α β : Type} (f : α → β) (g : Nat → α) (l : List (Nat × Nat)) :
    applySwapsTo (fun x => f (g x)) l = fun x => f (applySwapsTo g l x) := by
  induction l generalizing g with
  | nil => rfl
  | cons p l ih => rw [applySwapsTo_cons, swapAt_comp, ih, applySwapsTo_cons]

/-- Swapping data is reading data through the swapped identity: out[i] = in[P(i)] (R90). -/
theorem applySwapsTo_eq_comp_id {α : Type} (f : Nat → α) (l : List (Nat × Nat)) (x : Nat) :
    applySwapsTo f l x = f (applySwapsTo id l x) :=
  congrFun (applySwapsTo_comp f id l) x

theorem swapAt_injective {α : Type} {f : Nat → α} (hf : Function.Injective f) (p : Nat × Nat) :
    Function.Injective (swapAt f p) := by
  have h : swapAt f p = fun x => f (swapAt id p x) := swapAt_comp f id p
  rw [h]
  refine hf.comp fun x y hxy => ?_
  simp only [swapAt, id_eq] at hxy
  split at hxy <;> split at hxy <;> (try split at hxy) <;> (try split at hxy) <;> omega

theorem applySwapsTo_injective {α : Type} {f : Nat → α} (hf : Function.Injective f) (l : List (Nat × Nat)) :
    Function.Injective (applySwapsTo f l) := by
  induction l generalizing f with
  | nil => exact hf
  | cons p l ih => exact ih (swapAt_injective hf p)

/-- Swaps of positions below n keep a property that all entries below n have. -/
theorem applySwapsTo_forall {α : Type} {P : α → Prop} {n : Nat} {l : List (Nat × Nat)} (hl : ∀ p ∈ l, p.1 < n ∧ p.2 < n)
    {f : Nat → α} (hf : ∀ x, x < n → P (f x)) : ∀ x, x < n → P (applySwapsTo f l x) := by
  induction l generalizing f with
  | nil => exact hf
  | cons p l ih =>
    refine ih (fun q hq => hl q (List.mem_cons_of_mem _ hq)) fun x hx => ?_
    have hp := hl p (List.mem_cons_self ..)
    simp only [swapAt]
    split
    · exact hf _ hp.2
    · split
      · exact hf _ hp.1
      · exact hf _ hx

/-- Swaps look only at the entries below n. -/
theorem applySwapsTo_congr {α : Type} {n : Nat} {l : List (Nat × Nat)} (hl : ∀ p ∈ l, p.1 < n ∧ p.2 < n)
    {f g : Nat → α} (hfg : ∀ x, x < n → f x = g x) : ∀ x, x < n → applySwapsTo f l x = applySwapsTo g l x := by
  induction l generalizing f g with
  | nil => exact hfg
  | cons p l ih =>
    refine ih (fun q hq => hl q (List.mem_cons_of_mem _ hq)) fun x hx => ?_
    have hp := hl p (List.mem_cons_self ..)
    simp only [swapAt]
    split
    · exact hfg _ hp.2
    · split
      · exact hfg _ hp.1
      · exact hfg _ hx

/-- Every position below n is the image of one: TRACE is a permutation of 0..n-1 (R89). -/
theorem applySwapsTo_id_surj {n : Nat} {l : List (Nat × Nat)} (hl : ∀ p ∈ l, p.1 < n ∧ p.2 < n) {k : Nat} (hk : k < n) :
    ∃ i, i < n ∧ applySwapsTo id l i = k := by
  let F : Fin n → Fin n := fun i => ⟨applySwapsTo id l i, applySwapsTo_forall (P := (· < n)) hl (fun _ h => h) i i.2⟩
  have hF : Function.Injective F := fun x y hxy =>
    Fin.ext (applySwapsTo_injective Function.injective_id l (congrArg Fin.val hxy))
  obtain ⟨i, hi⟩ := Finite.surjective_of_injective hF ⟨k, hk⟩
  exact ⟨i, i.2, congrArg Fin.val hi⟩

/-- The positions 0..n-1 in swapped order are a permutation of 0..n-1 (R89). -/
theorem range_map_applySwapsTo_perm {n : Nat} {l : List (Nat × Nat)} (hl : ∀ p ∈ l, p.1 < n ∧ p.2 < n) :
    ((List.range n).map (applySwapsTo id l)).Perm (List.range n) := by
  refine (List.perm_ext_iff_of_nodup ?_ List.nodup_range).2 fun k => ?_
  · exact List.nodup_range.map (applySwapsTo_injective Function.injective_id l)
  · simp only [List.mem_map, List.mem_range]
    constructor
    · rintro ⟨i, hi, rfl⟩
      exact applySwapsTo_forall (P := (· < n)) hl (fun _ h => h) i hi
    · intro hk
      exact applySwapsTo_id_surj hl hk

/-! ### The sequence -/

/-- The pairs of a swap sequence: i runs over top..1 and j <= i (R87). -/
theorem mem_swapsFrom {top : Nat} {seed : Word} {p : Nat × Nat} (h : p ∈ swapsFrom top seed) :
    1 ≤ p.1 ∧ p.1 ≤ top ∧ p.2 ≤ p.1 := by
  induction top generalizing seed with
  | zero => simp [swapsFrom] at h
  | succ i ih =>
    rcases List.mem_cons.1 h with rfl | h
    · have := Nat.mod_lt (lcgNext seed).toNat (show 0 < i + 2 by omega)
      exact ⟨by simp, by simp, by simp only; omega⟩
    · have := ih h; omega

theorem swapSeq_lt {n : Nat} {seed : Word} (hn : 0 < n) {p : Nat × Nat} (h : p ∈ swapSeq n seed) : p.1 < n ∧ p.2 < n := by
  have := mem_swapsFrom h; omega

theorem lcgNext_toNat (s : Word) : (lcgNext s).toNat = (1103515245 * s.toNat + 12345) % 2 ^ 31 := by
  simp only [lcgNext, BitVec.toNat_ofNat]; omega

theorem lcgAfter_eq_iterate (k : Nat) (s : Word) : lcgAfter k s = lcgNext^[k] s := by
  induction k generalizing s with
  | zero => rfl
  | succ k ih => exact ih _

theorem lcgAfter_lt {k : Nat} (s : Word) (hk : 0 < k) : (lcgAfter k s).toNat < 2 ^ 31 := by
  obtain ⟨k, rfl⟩ : ∃ j, k = j + 1 := ⟨k - 1, by omega⟩
  rw [lcgAfter_eq_iterate, Function.iterate_succ_apply', lcgNext_toNat]
  omega

/-! ### UNSHUFFLE -/

theorem scatterByte_eq_ok {a : Nat} {t : Sparse Nat} {m : Memory} {u : Sparse Byte} {i k : Nat} {b : Byte} :
    scatterByte a t m u i = .ok (k, b) ↔ Sparse.read t i = some k ∧ Sparse.read m (a + i) = some b := by
  unfold scatterByte Sparse.fetch
  cases Sparse.read t i <;> cases Sparse.read m (a + i) <;> simp

theorem scatterByte_eq_error {a : Nat} {t : Sparse Nat} {m : Memory} {u : Sparse Byte} {i e : Nat}
    (h : scatterByte a t m u i = .error e) :
    (e = i ∧ Sparse.read t i = none) ∨ (e = a + i ∧ Sparse.read m (a + i) = none) := by
  unfold scatterByte Sparse.fetch at h
  cases ht : Sparse.read t i <;> cases hm : Sparse.read m (a + i) <;> simp_all

/-- The scatter loop through a trace that is, below n, an injective function into 0..n-1. -/
theorem scatter_ok {a n : Nat} {t : Sparse Nat} {m : Memory} {P : Nat → Nat} {val : Nat → Byte} (u0 : Sparse Byte)
    (ht : ∀ i, i < n → Sparse.read t i = some (P i)) (hP : Function.Injective P)
    (hm : ∀ i, i < n → Sparse.read m (a + i) = some (val i)) :
    ∃ u, Sparse.storeLoop (scatterByte a t m) n 0 u0 = .ok u ∧ ∀ i, i < n → Sparse.read u (P i) = some (val i) := by
  suffices H : ∀ r i0 u1, i0 + r = n → (∀ i, i < i0 → Sparse.read u1 (P i) = some (val i)) →
      ∃ u, Sparse.storeLoop (scatterByte a t m) r i0 u1 = .ok u ∧ ∀ i, i < n → Sparse.read u (P i) = some (val i) from
    H n 0 u0 (by omega) fun i hi => absurd hi (by omega)
  intro r
  induction r with
  | zero =>
    intro i0 u1 hn hv
    obtain rfl : i0 = n := by omega
    exact ⟨u1, rfl, hv⟩
  | succ r ih =>
    intro i0 u1 hn hv
    have hb : scatterByte a t m u1 i0 = .ok (P i0, val i0) := by
      simp [scatterByte, Sparse.fetch, ht i0 (by omega), hm i0 (by omega)]
    simp only [Sparse.storeLoop, hb]
    refine ih (i0 + 1) _ (by omega) fun i hi => ?_
    by_cases h : i = i0
    · subst h; simp
    · rw [Sparse.read_write_ne _ _ fun he => h (hP he).symm]
      exact hv i (by omega)

/-- The identity loop and the swaps on it always finish, and leave P = the swapped identity in TRACE[0..n-1]. -/
theorem trace_ok {n : Nat} (hn : 0 < n) (seed : Word) (t0 : Sparse Nat) :
    ∃ t1 t, Sparse.storeLoop identityEntry n 0 t0 = .ok t1 ∧ Sparse.applySwaps 0 (swapSeq n seed) t1 = .ok t ∧
      (∀ i, i < n → Sparse.read t i = some (applySwapsTo id (swapSeq n seed) i)) ∧
      (∀ i, n ≤ i → Sparse.read t i = Sparse.read t0 i) := by
  obtain ⟨t1, h1, hv, hf⟩ := Sparse.storeLoop_region (a := 0) (n := n) (body := identityEntry) (val := id) t0
    (fun i m _ _ => by simp [identityEntry])
  have hl : ∀ p ∈ swapSeq n seed, p.1 < n ∧ p.2 < n := fun p hp => swapSeq_lt hn hp
  obtain ⟨t, h2⟩ := Sparse.applySwaps_ok (base := 0) hl (fun z hz => ⟨z, by simpa using hv z hz⟩)
  refine ⟨t1, t, h1, h2, fun i hi => ?_, fun i hi => ?_⟩
  · have hr := Sparse.read_applySwaps h2 i
    rw [Nat.zero_add] at hr
    rw [hr, applySwapsTo_congr (g := fun y => some (id y)) hl (fun x hx => by simpa using hv x hx) i hi, applySwapsTo_comp]
  · have hni : ¬ InRegion 0 n i := fun h => by have := h.2; omega
    rw [Sparse.applySwaps_read_outside hl h2 hni, hf i hni]

/-- UNSHUFFLE's arrays where the buffer is written: the loops finish, and what they leave. -/
theorem unshuffleArrays_ok {a n : Nat} {m : Memory} (hn : 0 < n) (seed : Word) (t0 : Sparse Nat) (u0 : Sparse Byte)
    (hw : Written m a n) :
    ∃ r, unshuffleArrays a n seed t0 u0 m = .ok r ∧
      (∀ i, i < n → Sparse.read r.trace i = some (applySwapsTo id (swapSeq n seed) i)) ∧
      (∀ i, i < n → Sparse.read r.bmem (a + applySwapsTo id (swapSeq n seed) i) = Sparse.read m (a + i)) ∧
      (∀ i, i < n → Sparse.read r.tmp i = Sparse.read r.bmem (a + i)) ∧
      (∀ i, n ≤ i → Sparse.read r.trace i = Sparse.read t0 i ∧ Sparse.read r.tmp i = Sparse.read u0 i) ∧
      (∀ x, ¬ InRegion a n x → Sparse.read r.bmem x = Sparse.read m x) := by
  obtain ⟨t1, t, h1, h2, ht, htf⟩ := trace_ok hn seed t0
  have hl : ∀ p ∈ swapSeq n seed, p.1 < n ∧ p.2 < n := fun p hp => swapSeq_lt hn hp
  choose! val hval using hw
  obtain ⟨u, h3, hu⟩ := scatter_ok u0 ht (applySwapsTo_injective Function.injective_id _) hval
  have hlt : ∀ i, i < n → applySwapsTo id (swapSeq n seed) i < n := applySwapsTo_forall (P := (· < n)) hl fun _ h => h
  have huw : ∀ k, k < n → ∃ b, Sparse.read u k = some b := fun k hk => by
    obtain ⟨i, hi, rfl⟩ := applySwapsTo_id_surj hl hk
    exact ⟨_, hu i hi⟩
  choose! uval huval using huw
  obtain ⟨m', h4, hm', hmf⟩ := Sparse.storeLoop_region (a := a) (n := n) (body := copyBackByte a u) (val := uval) m
    (fun i _ hi _ => by simp [copyBackByte, Sparse.fetch, huval i hi])
  refine ⟨⟨t, u, m'⟩, by simp [unshuffleArrays, h1, h2, h3, h4], ht, fun i hi => ?_, fun i hi => ?_, fun i hi => ⟨htf i hi, ?_⟩, hmf⟩
  · rw [hm' _ (hlt i hi), ← huval _ (hlt i hi), hu i hi, hval i hi]
  · rw [huval i hi, hm' i hi]
  · refine Sparse.storeLoop_read_of_ne (fun _ j k v _ hj hb => ?_) h3
    have hk := (scatterByte_eq_ok.1 hb).1
    rw [ht j (by omega)] at hk
    have := hlt j (by omega)
    have := Option.some.inj hk
    omega

/-- UNSHUFFLE's arrays can miss only an unwritten byte of the buffer region. -/
theorem unshuffleArrays_error {a n : Nat} {m : Memory} {seed : Word} {t0 : Sparse Nat} {u0 : Sparse Byte} {e : Nat}
    (hn : 0 < n) (h : unshuffleArrays a n seed t0 u0 m = .error e) : InRegion a n e ∧ Sparse.read m e = none := by
  by_cases hw : Written m a n
  · obtain ⟨r, hr, -⟩ := unshuffleArrays_ok hn seed t0 u0 hw
    simp [hr] at h
  · obtain ⟨t1, t, h1, h2, ht, htf⟩ := trace_ok hn seed t0
    simp only [unshuffleArrays, h1, h2] at h
    split at h
    · rename_i x h3
      cases h
      obtain ⟨i, m2, -, hi, -, hb⟩ := Sparse.storeLoop_error (P := fun _ _ => True) (fun _ _ _ _ _ _ _ _ => trivial) trivial h3
      rcases scatterByte_eq_error hb with ⟨-, hn⟩ | ⟨rfl, hm⟩
      · simp [ht i (by omega)] at hn
      · exact ⟨⟨by omega, by omega⟩, hm⟩
    · rename_i u h3
      exact absurd (fun i hi => by
        by_contra hne
        have hnone : Sparse.read m (a + i) = none := by
          cases hr : Sparse.read m (a + i) with
          | none => rfl
          | some b => exact absurd ⟨b, hr⟩ hne
        have : ∀ r i0 u1, i0 ≤ i → i < i0 + r → Sparse.storeLoop (scatterByte a t m) r i0 u1 ≠ .ok u := by
          intro r
          induction r with
          | zero => intro i0 u1 h1 h2; omega
          | succ r ih =>
            intro i0 u1 h1 h2 hc
            simp only [Sparse.storeLoop] at hc
            split at hc
            · cases hc
            · rename_i k v hb
              rw [scatterByte_eq_ok] at hb
              by_cases he : i = i0
              · subst he
                simp [hnone] at hb
              · exact ih (i0 + 1) _ (by omega) (by omega) hc
        exact this n 0 u0 (by omega) (by omega) h3) hw

end Sys2Proof.Machine
end

