-- ==== Sys2Proof/Laws/State.lean ====
section
/-! SUPPORT. For every update of State, what each field reads after it: no later proof unfolds a record update. -/

namespace Sys2Proof.Machine.State

/-! ### accept -/

@[simp] theorem accept_cfg (s : State) (w : Word) : (s.accept w).cfg = s.cfg := rfl
@[simp] theorem accept_busy (s : State) (w : Word) : (s.accept w).busy = true := rfl
@[simp] theorem accept_done (s : State) (w : Word) : (s.accept w).done = false := rfl
@[simp] theorem accept_err (s : State) (w : Word) : (s.accept w).err = false := rfl
@[simp] theorem accept_errCode (s : State) (w : Word) : (s.accept w).errCode = .none := rfl
@[simp] theorem accept_ie (s : State) (w : Word) : (s.accept w).ie = s.ie := rfl
@[simp] theorem accept_bufAddr (s : State) (w : Word) : (s.accept w).bufAddr = s.bufAddr := rfl
@[simp] theorem accept_bufLen (s : State) (w : Word) : (s.accept w).bufLen = s.bufLen := rfl
@[simp] theorem accept_keyAddr (s : State) (w : Word) : (s.accept w).keyAddr = s.keyAddr := rfl
@[simp] theorem accept_keyLen (s : State) (w : Word) : (s.accept w).keyLen = s.keyLen := rfl
@[simp] theorem accept_seed (s : State) (w : Word) : (s.accept w).seed = s.seed := rfl
@[simp] theorem accept_result (s : State) (w : Word) : (s.accept w).result = s.result := rfl
@[simp] theorem accept_bmem (s : State) (w : Word) : (s.accept w).bmem = s.bmem := rfl
@[simp] theorem accept_pool (s : State) (w : Word) : (s.accept w).pool = s.pool := rfl
@[simp] theorem accept_lcg (s : State) (w : Word) : (s.accept w).lcg = s.lcg := rfl
@[simp] theorem accept_trace (s : State) (w : Word) : (s.accept w).trace = s.trace := rfl
@[simp] theorem accept_tmp (s : State) (w : Word) : (s.accept w).tmp = s.tmp := rfl
@[simp] theorem accept_curCmd (s : State) (w : Word) : (s.accept w).curCmd = w := rfl
@[simp] theorem accept_rst (s : State) (w : Word) : (s.accept w).rst = s.rst := rfl
@[simp] theorem accept_pending (s : State) (w : Word) : (s.accept w).pending = s.pending := rfl
@[simp] theorem accept_replies (s : State) (w : Word) : (s.accept w).replies = s.replies := rfl
@[simp] theorem accept_weakIn (s : State) (w : Word) : (s.accept w).weakIn = s.weakIn := rfl
@[simp] theorem accept_weakCount (s : State) (w : Word) : (s.accept w).weakCount = s.weakCount := rfl
@[simp] theorem accept_jitterIn (s : State) (w : Word) : (s.accept w).jitterIn = s.jitterIn := rfl
@[simp] theorem accept_jitterCount (s : State) (w : Word) : (s.accept w).jitterCount = s.jitterCount := rfl
@[simp] theorem accept_headStarts (s : State) (w : Word) : (s.accept w).headStarts = s.headStarts := rfl
@[simp] theorem accept_headStartCount (s : State) (w : Word) : (s.accept w).headStartCount = s.headStartCount := rfl
@[simp] theorem accept_hostMoves (s : State) (w : Word) : (s.accept w).hostMoves = s.hostMoves := rfl

/-! ### complete -/

@[simp] theorem complete_cfg (s : State) : (s.complete).cfg = s.cfg := rfl
@[simp] theorem complete_busy (s : State) : (s.complete).busy = false := rfl
@[simp] theorem complete_done (s : State) : (s.complete).done = true := rfl
@[simp] theorem complete_err (s : State) : (s.complete).err = s.err := rfl
@[simp] theorem complete_errCode (s : State) : (s.complete).errCode = s.errCode := rfl
@[simp] theorem complete_ie (s : State) : (s.complete).ie = s.ie := rfl
@[simp] theorem complete_bufAddr (s : State) : (s.complete).bufAddr = s.bufAddr := rfl
@[simp] theorem complete_bufLen (s : State) : (s.complete).bufLen = s.bufLen := rfl
@[simp] theorem complete_keyAddr (s : State) : (s.complete).keyAddr = s.keyAddr := rfl
@[simp] theorem complete_keyLen (s : State) : (s.complete).keyLen = s.keyLen := rfl
@[simp] theorem complete_seed (s : State) : (s.complete).seed = s.seed := rfl
@[simp] theorem complete_result (s : State) : (s.complete).result = s.result := rfl
@[simp] theorem complete_bmem (s : State) : (s.complete).bmem = s.bmem := rfl
@[simp] theorem complete_pool (s : State) : (s.complete).pool = s.pool := rfl
@[simp] theorem complete_lcg (s : State) : (s.complete).lcg = s.lcg := rfl
@[simp] theorem complete_trace (s : State) : (s.complete).trace = s.trace := rfl
@[simp] theorem complete_tmp (s : State) : (s.complete).tmp = s.tmp := rfl
@[simp] theorem complete_curCmd (s : State) : (s.complete).curCmd = s.curCmd := rfl
@[simp] theorem complete_rst (s : State) : (s.complete).rst = s.rst := rfl
@[simp] theorem complete_pending (s : State) : (s.complete).pending = s.pending := rfl
@[simp] theorem complete_replies (s : State) : (s.complete).replies = s.replies := rfl
@[simp] theorem complete_weakIn (s : State) : (s.complete).weakIn = s.weakIn := rfl
@[simp] theorem complete_weakCount (s : State) : (s.complete).weakCount = s.weakCount := rfl
@[simp] theorem complete_jitterIn (s : State) : (s.complete).jitterIn = s.jitterIn := rfl
@[simp] theorem complete_jitterCount (s : State) : (s.complete).jitterCount = s.jitterCount := rfl
@[simp] theorem complete_headStarts (s : State) : (s.complete).headStarts = s.headStarts := rfl
@[simp] theorem complete_headStartCount (s : State) : (s.complete).headStartCount = s.headStartCount := rfl
@[simp] theorem complete_hostMoves (s : State) : (s.complete).hostMoves = s.hostMoves := rfl

/-! ### setError -/

@[simp] theorem setError_cfg (s : State) (c : ErrCode) : (s.setError c).cfg = s.cfg := rfl
@[simp] theorem setError_busy (s : State) (c : ErrCode) : (s.setError c).busy = s.busy := rfl
@[simp] theorem setError_done (s : State) (c : ErrCode) : (s.setError c).done = s.done := rfl
@[simp] theorem setError_err (s : State) (c : ErrCode) : (s.setError c).err = true := rfl
@[simp] theorem setError_errCode (s : State) (c : ErrCode) : (s.setError c).errCode = c := rfl
@[simp] theorem setError_ie (s : State) (c : ErrCode) : (s.setError c).ie = s.ie := rfl
@[simp] theorem setError_bufAddr (s : State) (c : ErrCode) : (s.setError c).bufAddr = s.bufAddr := rfl
@[simp] theorem setError_bufLen (s : State) (c : ErrCode) : (s.setError c).bufLen = s.bufLen := rfl
@[simp] theorem setError_keyAddr (s : State) (c : ErrCode) : (s.setError c).keyAddr = s.keyAddr := rfl
@[simp] theorem setError_keyLen (s : State) (c : ErrCode) : (s.setError c).keyLen = s.keyLen := rfl
@[simp] theorem setError_seed (s : State) (c : ErrCode) : (s.setError c).seed = s.seed := rfl
@[simp] theorem setError_result (s : State) (c : ErrCode) : (s.setError c).result = s.result := rfl
@[simp] theorem setError_bmem (s : State) (c : ErrCode) : (s.setError c).bmem = s.bmem := rfl
@[simp] theorem setError_pool (s : State) (c : ErrCode) : (s.setError c).pool = s.pool := rfl
@[simp] theorem setError_lcg (s : State) (c : ErrCode) : (s.setError c).lcg = s.lcg := rfl
@[simp] theorem setError_trace (s : State) (c : ErrCode) : (s.setError c).trace = s.trace := rfl
@[simp] theorem setError_tmp (s : State) (c : ErrCode) : (s.setError c).tmp = s.tmp := rfl
@[simp] theorem setError_curCmd (s : State) (c : ErrCode) : (s.setError c).curCmd = s.curCmd := rfl
@[simp] theorem setError_rst (s : State) (c : ErrCode) : (s.setError c).rst = s.rst := rfl
@[simp] theorem setError_pending (s : State) (c : ErrCode) : (s.setError c).pending = s.pending := rfl
@[simp] theorem setError_replies (s : State) (c : ErrCode) : (s.setError c).replies = s.replies := rfl
@[simp] theorem setError_weakIn (s : State) (c : ErrCode) : (s.setError c).weakIn = s.weakIn := rfl
@[simp] theorem setError_weakCount (s : State) (c : ErrCode) : (s.setError c).weakCount = s.weakCount := rfl
@[simp] theorem setError_jitterIn (s : State) (c : ErrCode) : (s.setError c).jitterIn = s.jitterIn := rfl
@[simp] theorem setError_jitterCount (s : State) (c : ErrCode) : (s.setError c).jitterCount = s.jitterCount := rfl
@[simp] theorem setError_headStarts (s : State) (c : ErrCode) : (s.setError c).headStarts = s.headStarts := rfl
@[simp] theorem setError_headStartCount (s : State) (c : ErrCode) : (s.setError c).headStartCount = s.headStartCount := rfl
@[simp] theorem setError_hostMoves (s : State) (c : ErrCode) : (s.setError c).hostMoves = s.hostMoves := rfl

/-! ### cmdError -/

@[simp] theorem cmdError_cfg (s : State) (c : ErrCode) : (s.cmdError c).cfg = s.cfg := rfl
@[simp] theorem cmdError_busy (s : State) (c : ErrCode) : (s.cmdError c).busy = false := rfl
@[simp] theorem cmdError_done (s : State) (c : ErrCode) : (s.cmdError c).done = true := rfl
@[simp] theorem cmdError_err (s : State) (c : ErrCode) : (s.cmdError c).err = true := rfl
@[simp] theorem cmdError_errCode (s : State) (c : ErrCode) : (s.cmdError c).errCode = c := rfl
@[simp] theorem cmdError_ie (s : State) (c : ErrCode) : (s.cmdError c).ie = s.ie := rfl
@[simp] theorem cmdError_bufAddr (s : State) (c : ErrCode) : (s.cmdError c).bufAddr = s.bufAddr := rfl
@[simp] theorem cmdError_bufLen (s : State) (c : ErrCode) : (s.cmdError c).bufLen = s.bufLen := rfl
@[simp] theorem cmdError_keyAddr (s : State) (c : ErrCode) : (s.cmdError c).keyAddr = s.keyAddr := rfl
@[simp] theorem cmdError_keyLen (s : State) (c : ErrCode) : (s.cmdError c).keyLen = s.keyLen := rfl
@[simp] theorem cmdError_seed (s : State) (c : ErrCode) : (s.cmdError c).seed = s.seed := rfl
@[simp] theorem cmdError_result (s : State) (c : ErrCode) : (s.cmdError c).result = s.result := rfl
@[simp] theorem cmdError_bmem (s : State) (c : ErrCode) : (s.cmdError c).bmem = s.bmem := rfl
@[simp] theorem cmdError_pool (s : State) (c : ErrCode) : (s.cmdError c).pool = s.pool := rfl
@[simp] theorem cmdError_lcg (s : State) (c : ErrCode) : (s.cmdError c).lcg = s.lcg := rfl
@[simp] theorem cmdError_trace (s : State) (c : ErrCode) : (s.cmdError c).trace = s.trace := rfl
@[simp] theorem cmdError_tmp (s : State) (c : ErrCode) : (s.cmdError c).tmp = s.tmp := rfl
@[simp] theorem cmdError_curCmd (s : State) (c : ErrCode) : (s.cmdError c).curCmd = s.curCmd := rfl
@[simp] theorem cmdError_rst (s : State) (c : ErrCode) : (s.cmdError c).rst = s.rst := rfl
@[simp] theorem cmdError_pending (s : State) (c : ErrCode) : (s.cmdError c).pending = s.pending := rfl
@[simp] theorem cmdError_replies (s : State) (c : ErrCode) : (s.cmdError c).replies = s.replies := rfl
@[simp] theorem cmdError_weakIn (s : State) (c : ErrCode) : (s.cmdError c).weakIn = s.weakIn := rfl
@[simp] theorem cmdError_weakCount (s : State) (c : ErrCode) : (s.cmdError c).weakCount = s.weakCount := rfl
@[simp] theorem cmdError_jitterIn (s : State) (c : ErrCode) : (s.cmdError c).jitterIn = s.jitterIn := rfl
@[simp] theorem cmdError_jitterCount (s : State) (c : ErrCode) : (s.cmdError c).jitterCount = s.jitterCount := rfl
@[simp] theorem cmdError_headStarts (s : State) (c : ErrCode) : (s.cmdError c).headStarts = s.headStarts := rfl
@[simp] theorem cmdError_headStartCount (s : State) (c : ErrCode) : (s.cmdError c).headStartCount = s.headStartCount := rfl
@[simp] theorem cmdError_hostMoves (s : State) (c : ErrCode) : (s.cmdError c).hostMoves = s.hostMoves := rfl

/-! ### writeStatus -/

@[simp] theorem writeStatus_cfg (s : State) (w : Word) : (s.writeStatus w).cfg = s.cfg := rfl
@[simp] theorem writeStatus_busy (s : State) (w : Word) : (s.writeStatus w).busy = s.busy := rfl
@[simp] theorem writeStatus_done (s : State) (w : Word) : (s.writeStatus w).done = if w.getLsbD 1 then false else s.done := rfl
@[simp] theorem writeStatus_err (s : State) (w : Word) : (s.writeStatus w).err = if w.getLsbD 2 then false else s.err := rfl
@[simp] theorem writeStatus_errCode (s : State) (w : Word) : (s.writeStatus w).errCode = if w.getLsbD 2 then .none else s.errCode := rfl
@[simp] theorem writeStatus_ie (s : State) (w : Word) : (s.writeStatus w).ie = s.ie := rfl
@[simp] theorem writeStatus_bufAddr (s : State) (w : Word) : (s.writeStatus w).bufAddr = s.bufAddr := rfl
@[simp] theorem writeStatus_bufLen (s : State) (w : Word) : (s.writeStatus w).bufLen = s.bufLen := rfl
@[simp] theorem writeStatus_keyAddr (s : State) (w : Word) : (s.writeStatus w).keyAddr = s.keyAddr := rfl
@[simp] theorem writeStatus_keyLen (s : State) (w : Word) : (s.writeStatus w).keyLen = s.keyLen := rfl
@[simp] theorem writeStatus_seed (s : State) (w : Word) : (s.writeStatus w).seed = s.seed := rfl
@[simp] theorem writeStatus_result (s : State) (w : Word) : (s.writeStatus w).result = s.result := rfl
@[simp] theorem writeStatus_bmem (s : State) (w : Word) : (s.writeStatus w).bmem = s.bmem := rfl
@[simp] theorem writeStatus_pool (s : State) (w : Word) : (s.writeStatus w).pool = s.pool := rfl
@[simp] theorem writeStatus_lcg (s : State) (w : Word) : (s.writeStatus w).lcg = s.lcg := rfl
@[simp] theorem writeStatus_trace (s : State) (w : Word) : (s.writeStatus w).trace = s.trace := rfl
@[simp] theorem writeStatus_tmp (s : State) (w : Word) : (s.writeStatus w).tmp = s.tmp := rfl
@[simp] theorem writeStatus_curCmd (s : State) (w : Word) : (s.writeStatus w).curCmd = s.curCmd := rfl
@[simp] theorem writeStatus_rst (s : State) (w : Word) : (s.writeStatus w).rst = s.rst := rfl
@[simp] theorem writeStatus_pending (s : State) (w : Word) : (s.writeStatus w).pending = s.pending := rfl
@[simp] theorem writeStatus_replies (s : State) (w : Word) : (s.writeStatus w).replies = s.replies := rfl
@[simp] theorem writeStatus_weakIn (s : State) (w : Word) : (s.writeStatus w).weakIn = s.weakIn := rfl
@[simp] theorem writeStatus_weakCount (s : State) (w : Word) : (s.writeStatus w).weakCount = s.weakCount := rfl
@[simp] theorem writeStatus_jitterIn (s : State) (w : Word) : (s.writeStatus w).jitterIn = s.jitterIn := rfl
@[simp] theorem writeStatus_jitterCount (s : State) (w : Word) : (s.writeStatus w).jitterCount = s.jitterCount := rfl
@[simp] theorem writeStatus_headStarts (s : State) (w : Word) : (s.writeStatus w).headStarts = s.headStarts := rfl
@[simp] theorem writeStatus_headStartCount (s : State) (w : Word) : (s.writeStatus w).headStartCount = s.headStartCount := rfl
@[simp] theorem writeStatus_hostMoves (s : State) (w : Word) : (s.writeStatus w).hostMoves = s.hostMoves := rfl

/-! ### writeCtrl -/

@[simp] theorem writeCtrl_cfg (s : State) (w : Word) : (s.writeCtrl w).cfg = s.cfg := rfl
@[simp] theorem writeCtrl_busy (s : State) (w : Word) : (s.writeCtrl w).busy = s.busy := rfl
@[simp] theorem writeCtrl_done (s : State) (w : Word) : (s.writeCtrl w).done = s.done := rfl
@[simp] theorem writeCtrl_err (s : State) (w : Word) : (s.writeCtrl w).err = s.err := rfl
@[simp] theorem writeCtrl_errCode (s : State) (w : Word) : (s.writeCtrl w).errCode = s.errCode := rfl
@[simp] theorem writeCtrl_ie (s : State) (w : Word) : (s.writeCtrl w).ie = w.getLsbD 0 := rfl
@[simp] theorem writeCtrl_bufAddr (s : State) (w : Word) : (s.writeCtrl w).bufAddr = s.bufAddr := rfl
@[simp] theorem writeCtrl_bufLen (s : State) (w : Word) : (s.writeCtrl w).bufLen = s.bufLen := rfl
@[simp] theorem writeCtrl_keyAddr (s : State) (w : Word) : (s.writeCtrl w).keyAddr = s.keyAddr := rfl
@[simp] theorem writeCtrl_keyLen (s : State) (w : Word) : (s.writeCtrl w).keyLen = s.keyLen := rfl
@[simp] theorem writeCtrl_seed (s : State) (w : Word) : (s.writeCtrl w).seed = s.seed := rfl
@[simp] theorem writeCtrl_result (s : State) (w : Word) : (s.writeCtrl w).result = s.result := rfl
@[simp] theorem writeCtrl_bmem (s : State) (w : Word) : (s.writeCtrl w).bmem = s.bmem := rfl
@[simp] theorem writeCtrl_pool (s : State) (w : Word) : (s.writeCtrl w).pool = s.pool := rfl
@[simp] theorem writeCtrl_lcg (s : State) (w : Word) : (s.writeCtrl w).lcg = s.lcg := rfl
@[simp] theorem writeCtrl_trace (s : State) (w : Word) : (s.writeCtrl w).trace = s.trace := rfl
@[simp] theorem writeCtrl_tmp (s : State) (w : Word) : (s.writeCtrl w).tmp = s.tmp := rfl
@[simp] theorem writeCtrl_curCmd (s : State) (w : Word) : (s.writeCtrl w).curCmd = s.curCmd := rfl
@[simp] theorem writeCtrl_rst (s : State) (w : Word) : (s.writeCtrl w).rst = s.rst := rfl
@[simp] theorem writeCtrl_pending (s : State) (w : Word) : (s.writeCtrl w).pending = s.pending := rfl
@[simp] theorem writeCtrl_replies (s : State) (w : Word) : (s.writeCtrl w).replies = s.replies := rfl
@[simp] theorem writeCtrl_weakIn (s : State) (w : Word) : (s.writeCtrl w).weakIn = s.weakIn := rfl
@[simp] theorem writeCtrl_weakCount (s : State) (w : Word) : (s.writeCtrl w).weakCount = s.weakCount := rfl
@[simp] theorem writeCtrl_jitterIn (s : State) (w : Word) : (s.writeCtrl w).jitterIn = s.jitterIn := rfl
@[simp] theorem writeCtrl_jitterCount (s : State) (w : Word) : (s.writeCtrl w).jitterCount = s.jitterCount := rfl
@[simp] theorem writeCtrl_headStarts (s : State) (w : Word) : (s.writeCtrl w).headStarts = s.headStarts := rfl
@[simp] theorem writeCtrl_headStartCount (s : State) (w : Word) : (s.writeCtrl w).headStartCount = s.headStartCount := rfl
@[simp] theorem writeCtrl_hostMoves (s : State) (w : Word) : (s.writeCtrl w).hostMoves = s.hostMoves := rfl

/-! ### withBmem -/

@[simp] theorem withBmem_cfg (s : State) (m : Memory) : (s.withBmem m).cfg = s.cfg := rfl
@[simp] theorem withBmem_busy (s : State) (m : Memory) : (s.withBmem m).busy = s.busy := rfl
@[simp] theorem withBmem_done (s : State) (m : Memory) : (s.withBmem m).done = s.done := rfl
@[simp] theorem withBmem_err (s : State) (m : Memory) : (s.withBmem m).err = s.err := rfl
@[simp] theorem withBmem_errCode (s : State) (m : Memory) : (s.withBmem m).errCode = s.errCode := rfl
@[simp] theorem withBmem_ie (s : State) (m : Memory) : (s.withBmem m).ie = s.ie := rfl
@[simp] theorem withBmem_bufAddr (s : State) (m : Memory) : (s.withBmem m).bufAddr = s.bufAddr := rfl
@[simp] theorem withBmem_bufLen (s : State) (m : Memory) : (s.withBmem m).bufLen = s.bufLen := rfl
@[simp] theorem withBmem_keyAddr (s : State) (m : Memory) : (s.withBmem m).keyAddr = s.keyAddr := rfl
@[simp] theorem withBmem_keyLen (s : State) (m : Memory) : (s.withBmem m).keyLen = s.keyLen := rfl
@[simp] theorem withBmem_seed (s : State) (m : Memory) : (s.withBmem m).seed = s.seed := rfl
@[simp] theorem withBmem_result (s : State) (m : Memory) : (s.withBmem m).result = s.result := rfl
@[simp] theorem withBmem_bmem (s : State) (m : Memory) : (s.withBmem m).bmem = m := rfl
@[simp] theorem withBmem_pool (s : State) (m : Memory) : (s.withBmem m).pool = s.pool := rfl
@[simp] theorem withBmem_lcg (s : State) (m : Memory) : (s.withBmem m).lcg = s.lcg := rfl
@[simp] theorem withBmem_trace (s : State) (m : Memory) : (s.withBmem m).trace = s.trace := rfl
@[simp] theorem withBmem_tmp (s : State) (m : Memory) : (s.withBmem m).tmp = s.tmp := rfl
@[simp] theorem withBmem_curCmd (s : State) (m : Memory) : (s.withBmem m).curCmd = s.curCmd := rfl
@[simp] theorem withBmem_rst (s : State) (m : Memory) : (s.withBmem m).rst = s.rst := rfl
@[simp] theorem withBmem_pending (s : State) (m : Memory) : (s.withBmem m).pending = s.pending := rfl
@[simp] theorem withBmem_replies (s : State) (m : Memory) : (s.withBmem m).replies = s.replies := rfl
@[simp] theorem withBmem_weakIn (s : State) (m : Memory) : (s.withBmem m).weakIn = s.weakIn := rfl
@[simp] theorem withBmem_weakCount (s : State) (m : Memory) : (s.withBmem m).weakCount = s.weakCount := rfl
@[simp] theorem withBmem_jitterIn (s : State) (m : Memory) : (s.withBmem m).jitterIn = s.jitterIn := rfl
@[simp] theorem withBmem_jitterCount (s : State) (m : Memory) : (s.withBmem m).jitterCount = s.jitterCount := rfl
@[simp] theorem withBmem_headStarts (s : State) (m : Memory) : (s.withBmem m).headStarts = s.headStarts := rfl
@[simp] theorem withBmem_headStartCount (s : State) (m : Memory) : (s.withBmem m).headStartCount = s.headStartCount := rfl
@[simp] theorem withBmem_hostMoves (s : State) (m : Memory) : (s.withBmem m).hostMoves = s.hostMoves := rfl

/-! ### withResult -/

@[simp] theorem withResult_cfg (s : State) (w : Word) : (s.withResult w).cfg = s.cfg := rfl
@[simp] theorem withResult_busy (s : State) (w : Word) : (s.withResult w).busy = s.busy := rfl
@[simp] theorem withResult_done (s : State) (w : Word) : (s.withResult w).done = s.done := rfl
@[simp] theorem withResult_err (s : State) (w : Word) : (s.withResult w).err = s.err := rfl
@[simp] theorem withResult_errCode (s : State) (w : Word) : (s.withResult w).errCode = s.errCode := rfl
@[simp] theorem withResult_ie (s : State) (w : Word) : (s.withResult w).ie = s.ie := rfl
@[simp] theorem withResult_bufAddr (s : State) (w : Word) : (s.withResult w).bufAddr = s.bufAddr := rfl
@[simp] theorem withResult_bufLen (s : State) (w : Word) : (s.withResult w).bufLen = s.bufLen := rfl
@[simp] theorem withResult_keyAddr (s : State) (w : Word) : (s.withResult w).keyAddr = s.keyAddr := rfl
@[simp] theorem withResult_keyLen (s : State) (w : Word) : (s.withResult w).keyLen = s.keyLen := rfl
@[simp] theorem withResult_seed (s : State) (w : Word) : (s.withResult w).seed = s.seed := rfl
@[simp] theorem withResult_result (s : State) (w : Word) : (s.withResult w).result = w := rfl
@[simp] theorem withResult_bmem (s : State) (w : Word) : (s.withResult w).bmem = s.bmem := rfl
@[simp] theorem withResult_pool (s : State) (w : Word) : (s.withResult w).pool = s.pool := rfl
@[simp] theorem withResult_lcg (s : State) (w : Word) : (s.withResult w).lcg = s.lcg := rfl
@[simp] theorem withResult_trace (s : State) (w : Word) : (s.withResult w).trace = s.trace := rfl
@[simp] theorem withResult_tmp (s : State) (w : Word) : (s.withResult w).tmp = s.tmp := rfl
@[simp] theorem withResult_curCmd (s : State) (w : Word) : (s.withResult w).curCmd = s.curCmd := rfl
@[simp] theorem withResult_rst (s : State) (w : Word) : (s.withResult w).rst = s.rst := rfl
@[simp] theorem withResult_pending (s : State) (w : Word) : (s.withResult w).pending = s.pending := rfl
@[simp] theorem withResult_replies (s : State) (w : Word) : (s.withResult w).replies = s.replies := rfl
@[simp] theorem withResult_weakIn (s : State) (w : Word) : (s.withResult w).weakIn = s.weakIn := rfl
@[simp] theorem withResult_weakCount (s : State) (w : Word) : (s.withResult w).weakCount = s.weakCount := rfl
@[simp] theorem withResult_jitterIn (s : State) (w : Word) : (s.withResult w).jitterIn = s.jitterIn := rfl
@[simp] theorem withResult_jitterCount (s : State) (w : Word) : (s.withResult w).jitterCount = s.jitterCount := rfl
@[simp] theorem withResult_headStarts (s : State) (w : Word) : (s.withResult w).headStarts = s.headStarts := rfl
@[simp] theorem withResult_headStartCount (s : State) (w : Word) : (s.withResult w).headStartCount = s.headStartCount := rfl
@[simp] theorem withResult_hostMoves (s : State) (w : Word) : (s.withResult w).hostMoves = s.hostMoves := rfl

/-! ### withLcg -/

@[simp] theorem withLcg_cfg (s : State) (w : Word) : (s.withLcg w).cfg = s.cfg := rfl
@[simp] theorem withLcg_busy (s : State) (w : Word) : (s.withLcg w).busy = s.busy := rfl
@[simp] theorem withLcg_done (s : State) (w : Word) : (s.withLcg w).done = s.done := rfl
@[simp] theorem withLcg_err (s : State) (w : Word) : (s.withLcg w).err = s.err := rfl
@[simp] theorem withLcg_errCode (s : State) (w : Word) : (s.withLcg w).errCode = s.errCode := rfl
@[simp] theorem withLcg_ie (s : State) (w : Word) : (s.withLcg w).ie = s.ie := rfl
@[simp] theorem withLcg_bufAddr (s : State) (w : Word) : (s.withLcg w).bufAddr = s.bufAddr := rfl
@[simp] theorem withLcg_bufLen (s : State) (w : Word) : (s.withLcg w).bufLen = s.bufLen := rfl
@[simp] theorem withLcg_keyAddr (s : State) (w : Word) : (s.withLcg w).keyAddr = s.keyAddr := rfl
@[simp] theorem withLcg_keyLen (s : State) (w : Word) : (s.withLcg w).keyLen = s.keyLen := rfl
@[simp] theorem withLcg_seed (s : State) (w : Word) : (s.withLcg w).seed = s.seed := rfl
@[simp] theorem withLcg_result (s : State) (w : Word) : (s.withLcg w).result = s.result := rfl
@[simp] theorem withLcg_bmem (s : State) (w : Word) : (s.withLcg w).bmem = s.bmem := rfl
@[simp] theorem withLcg_pool (s : State) (w : Word) : (s.withLcg w).pool = s.pool := rfl
@[simp] theorem withLcg_lcg (s : State) (w : Word) : (s.withLcg w).lcg = w := rfl
@[simp] theorem withLcg_trace (s : State) (w : Word) : (s.withLcg w).trace = s.trace := rfl
@[simp] theorem withLcg_tmp (s : State) (w : Word) : (s.withLcg w).tmp = s.tmp := rfl
@[simp] theorem withLcg_curCmd (s : State) (w : Word) : (s.withLcg w).curCmd = s.curCmd := rfl
@[simp] theorem withLcg_rst (s : State) (w : Word) : (s.withLcg w).rst = s.rst := rfl
@[simp] theorem withLcg_pending (s : State) (w : Word) : (s.withLcg w).pending = s.pending := rfl
@[simp] theorem withLcg_replies (s : State) (w : Word) : (s.withLcg w).replies = s.replies := rfl
@[simp] theorem withLcg_weakIn (s : State) (w : Word) : (s.withLcg w).weakIn = s.weakIn := rfl
@[simp] theorem withLcg_weakCount (s : State) (w : Word) : (s.withLcg w).weakCount = s.weakCount := rfl
@[simp] theorem withLcg_jitterIn (s : State) (w : Word) : (s.withLcg w).jitterIn = s.jitterIn := rfl
@[simp] theorem withLcg_jitterCount (s : State) (w : Word) : (s.withLcg w).jitterCount = s.jitterCount := rfl
@[simp] theorem withLcg_headStarts (s : State) (w : Word) : (s.withLcg w).headStarts = s.headStarts := rfl
@[simp] theorem withLcg_headStartCount (s : State) (w : Word) : (s.withLcg w).headStartCount = s.headStartCount := rfl
@[simp] theorem withLcg_hostMoves (s : State) (w : Word) : (s.withLcg w).hostMoves = s.hostMoves := rfl

/-! ### withScratch -/

@[simp] theorem withScratch_cfg (s : State) (t : Sparse Nat) (u : Sparse Byte) : (s.withScratch t u).cfg = s.cfg := rfl
@[simp] theorem withScratch_busy (s : State) (t : Sparse Nat) (u : Sparse Byte) : (s.withScratch t u).busy = s.busy := rfl
@[simp] theorem withScratch_done (s : State) (t : Sparse Nat) (u : Sparse Byte) : (s.withScratch t u).done = s.done := rfl
@[simp] theorem withScratch_err (s : State) (t : Sparse Nat) (u : Sparse Byte) : (s.withScratch t u).err = s.err := rfl
@[simp] theorem withScratch_errCode (s : State) (t : Sparse Nat) (u : Sparse Byte) : (s.withScratch t u).errCode = s.errCode := rfl
@[simp] theorem withScratch_ie (s : State) (t : Sparse Nat) (u : Sparse Byte) : (s.withScratch t u).ie = s.ie := rfl
@[simp] theorem withScratch_bufAddr (s : State) (t : Sparse Nat) (u : Sparse Byte) : (s.withScratch t u).bufAddr = s.bufAddr := rfl
@[simp] theorem withScratch_bufLen (s : State) (t : Sparse Nat) (u : Sparse Byte) : (s.withScratch t u).bufLen = s.bufLen := rfl
@[simp] theorem withScratch_keyAddr (s : State) (t : Sparse Nat) (u : Sparse Byte) : (s.withScratch t u).keyAddr = s.keyAddr := rfl
@[simp] theorem withScratch_keyLen (s : State) (t : Sparse Nat) (u : Sparse Byte) : (s.withScratch t u).keyLen = s.keyLen := rfl
@[simp] theorem withScratch_seed (s : State) (t : Sparse Nat) (u : Sparse Byte) : (s.withScratch t u).seed = s.seed := rfl
@[simp] theorem withScratch_result (s : State) (t : Sparse Nat) (u : Sparse Byte) : (s.withScratch t u).result = s.result := rfl
@[simp] theorem withScratch_bmem (s : State) (t : Sparse Nat) (u : Sparse Byte) : (s.withScratch t u).bmem = s.bmem := rfl
@[simp] theorem withScratch_pool (s : State) (t : Sparse Nat) (u : Sparse Byte) : (s.withScratch t u).pool = s.pool := rfl
@[simp] theorem withScratch_lcg (s : State) (t : Sparse Nat) (u : Sparse Byte) : (s.withScratch t u).lcg = s.lcg := rfl
@[simp] theorem withScratch_trace (s : State) (t : Sparse Nat) (u : Sparse Byte) : (s.withScratch t u).trace = t := rfl
@[simp] theorem withScratch_tmp (s : State) (t : Sparse Nat) (u : Sparse Byte) : (s.withScratch t u).tmp = u := rfl
@[simp] theorem withScratch_curCmd (s : State) (t : Sparse Nat) (u : Sparse Byte) : (s.withScratch t u).curCmd = s.curCmd := rfl
@[simp] theorem withScratch_rst (s : State) (t : Sparse Nat) (u : Sparse Byte) : (s.withScratch t u).rst = s.rst := rfl
@[simp] theorem withScratch_pending (s : State) (t : Sparse Nat) (u : Sparse Byte) : (s.withScratch t u).pending = s.pending := rfl
@[simp] theorem withScratch_replies (s : State) (t : Sparse Nat) (u : Sparse Byte) : (s.withScratch t u).replies = s.replies := rfl
@[simp] theorem withScratch_weakIn (s : State) (t : Sparse Nat) (u : Sparse Byte) : (s.withScratch t u).weakIn = s.weakIn := rfl
@[simp] theorem withScratch_weakCount (s : State) (t : Sparse Nat) (u : Sparse Byte) : (s.withScratch t u).weakCount = s.weakCount := rfl
@[simp] theorem withScratch_jitterIn (s : State) (t : Sparse Nat) (u : Sparse Byte) : (s.withScratch t u).jitterIn = s.jitterIn := rfl
@[simp] theorem withScratch_jitterCount (s : State) (t : Sparse Nat) (u : Sparse Byte) : (s.withScratch t u).jitterCount = s.jitterCount := rfl
@[simp] theorem withScratch_headStarts (s : State) (t : Sparse Nat) (u : Sparse Byte) : (s.withScratch t u).headStarts = s.headStarts := rfl
@[simp] theorem withScratch_headStartCount (s : State) (t : Sparse Nat) (u : Sparse Byte) : (s.withScratch t u).headStartCount = s.headStartCount := rfl
@[simp] theorem withScratch_hostMoves (s : State) (t : Sparse Nat) (u : Sparse Byte) : (s.withScratch t u).hostMoves = s.hostMoves := rfl

/-! ### withPool -/

@[simp] theorem withPool_cfg (s : State) (p : Pool) : (s.withPool p).cfg = s.cfg := rfl
@[simp] theorem withPool_busy (s : State) (p : Pool) : (s.withPool p).busy = s.busy := rfl
@[simp] theorem withPool_done (s : State) (p : Pool) : (s.withPool p).done = s.done := rfl
@[simp] theorem withPool_err (s : State) (p : Pool) : (s.withPool p).err = s.err := rfl
@[simp] theorem withPool_errCode (s : State) (p : Pool) : (s.withPool p).errCode = s.errCode := rfl
@[simp] theorem withPool_ie (s : State) (p : Pool) : (s.withPool p).ie = s.ie := rfl
@[simp] theorem withPool_bufAddr (s : State) (p : Pool) : (s.withPool p).bufAddr = s.bufAddr := rfl
@[simp] theorem withPool_bufLen (s : State) (p : Pool) : (s.withPool p).bufLen = s.bufLen := rfl
@[simp] theorem withPool_keyAddr (s : State) (p : Pool) : (s.withPool p).keyAddr = s.keyAddr := rfl
@[simp] theorem withPool_keyLen (s : State) (p : Pool) : (s.withPool p).keyLen = s.keyLen := rfl
@[simp] theorem withPool_seed (s : State) (p : Pool) : (s.withPool p).seed = s.seed := rfl
@[simp] theorem withPool_result (s : State) (p : Pool) : (s.withPool p).result = s.result := rfl
@[simp] theorem withPool_bmem (s : State) (p : Pool) : (s.withPool p).bmem = s.bmem := rfl
@[simp] theorem withPool_pool (s : State) (p : Pool) : (s.withPool p).pool = p := rfl
@[simp] theorem withPool_lcg (s : State) (p : Pool) : (s.withPool p).lcg = s.lcg := rfl
@[simp] theorem withPool_trace (s : State) (p : Pool) : (s.withPool p).trace = s.trace := rfl
@[simp] theorem withPool_tmp (s : State) (p : Pool) : (s.withPool p).tmp = s.tmp := rfl
@[simp] theorem withPool_curCmd (s : State) (p : Pool) : (s.withPool p).curCmd = s.curCmd := rfl
@[simp] theorem withPool_rst (s : State) (p : Pool) : (s.withPool p).rst = s.rst := rfl
@[simp] theorem withPool_pending (s : State) (p : Pool) : (s.withPool p).pending = s.pending := rfl
@[simp] theorem withPool_replies (s : State) (p : Pool) : (s.withPool p).replies = s.replies := rfl
@[simp] theorem withPool_weakIn (s : State) (p : Pool) : (s.withPool p).weakIn = s.weakIn := rfl
@[simp] theorem withPool_weakCount (s : State) (p : Pool) : (s.withPool p).weakCount = s.weakCount := rfl
@[simp] theorem withPool_jitterIn (s : State) (p : Pool) : (s.withPool p).jitterIn = s.jitterIn := rfl
@[simp] theorem withPool_jitterCount (s : State) (p : Pool) : (s.withPool p).jitterCount = s.jitterCount := rfl
@[simp] theorem withPool_headStarts (s : State) (p : Pool) : (s.withPool p).headStarts = s.headStarts := rfl
@[simp] theorem withPool_headStartCount (s : State) (p : Pool) : (s.withPool p).headStartCount = s.headStartCount := rfl
@[simp] theorem withPool_hostMoves (s : State) (p : Pool) : (s.withPool p).hostMoves = s.hostMoves := rfl

/-! ### takeWeak -/

@[simp] theorem takeWeak_cfg (s : State) (n : Nat) : (s.takeWeak n).cfg = s.cfg := rfl
@[simp] theorem takeWeak_busy (s : State) (n : Nat) : (s.takeWeak n).busy = s.busy := rfl
@[simp] theorem takeWeak_done (s : State) (n : Nat) : (s.takeWeak n).done = s.done := rfl
@[simp] theorem takeWeak_err (s : State) (n : Nat) : (s.takeWeak n).err = s.err := rfl
@[simp] theorem takeWeak_errCode (s : State) (n : Nat) : (s.takeWeak n).errCode = s.errCode := rfl
@[simp] theorem takeWeak_ie (s : State) (n : Nat) : (s.takeWeak n).ie = s.ie := rfl
@[simp] theorem takeWeak_bufAddr (s : State) (n : Nat) : (s.takeWeak n).bufAddr = s.bufAddr := rfl
@[simp] theorem takeWeak_bufLen (s : State) (n : Nat) : (s.takeWeak n).bufLen = s.bufLen := rfl
@[simp] theorem takeWeak_keyAddr (s : State) (n : Nat) : (s.takeWeak n).keyAddr = s.keyAddr := rfl
@[simp] theorem takeWeak_keyLen (s : State) (n : Nat) : (s.takeWeak n).keyLen = s.keyLen := rfl
@[simp] theorem takeWeak_seed (s : State) (n : Nat) : (s.takeWeak n).seed = s.seed := rfl
@[simp] theorem takeWeak_result (s : State) (n : Nat) : (s.takeWeak n).result = s.result := rfl
@[simp] theorem takeWeak_bmem (s : State) (n : Nat) : (s.takeWeak n).bmem = s.bmem := rfl
@[simp] theorem takeWeak_pool (s : State) (n : Nat) : (s.takeWeak n).pool = s.pool := rfl
@[simp] theorem takeWeak_lcg (s : State) (n : Nat) : (s.takeWeak n).lcg = s.lcg := rfl
@[simp] theorem takeWeak_trace (s : State) (n : Nat) : (s.takeWeak n).trace = s.trace := rfl
@[simp] theorem takeWeak_tmp (s : State) (n : Nat) : (s.takeWeak n).tmp = s.tmp := rfl
@[simp] theorem takeWeak_curCmd (s : State) (n : Nat) : (s.takeWeak n).curCmd = s.curCmd := rfl
@[simp] theorem takeWeak_rst (s : State) (n : Nat) : (s.takeWeak n).rst = s.rst := rfl
@[simp] theorem takeWeak_pending (s : State) (n : Nat) : (s.takeWeak n).pending = s.pending := rfl
@[simp] theorem takeWeak_replies (s : State) (n : Nat) : (s.takeWeak n).replies = s.replies := rfl
@[simp] theorem takeWeak_weakIn (s : State) (n : Nat) : (s.takeWeak n).weakIn = s.weakIn.drop n := rfl
@[simp] theorem takeWeak_weakCount (s : State) (n : Nat) : (s.takeWeak n).weakCount = s.weakCount + n := rfl
@[simp] theorem takeWeak_jitterIn (s : State) (n : Nat) : (s.takeWeak n).jitterIn = s.jitterIn := rfl
@[simp] theorem takeWeak_jitterCount (s : State) (n : Nat) : (s.takeWeak n).jitterCount = s.jitterCount := rfl
@[simp] theorem takeWeak_headStarts (s : State) (n : Nat) : (s.takeWeak n).headStarts = s.headStarts := rfl
@[simp] theorem takeWeak_headStartCount (s : State) (n : Nat) : (s.takeWeak n).headStartCount = s.headStartCount := rfl
@[simp] theorem takeWeak_hostMoves (s : State) (n : Nat) : (s.takeWeak n).hostMoves = s.hostMoves := rfl

/-! ### takeJitter -/

@[simp] theorem takeJitter_cfg (s : State) : (s.takeJitter).cfg = s.cfg := rfl
@[simp] theorem takeJitter_busy (s : State) : (s.takeJitter).busy = s.busy := rfl
@[simp] theorem takeJitter_done (s : State) : (s.takeJitter).done = s.done := rfl
@[simp] theorem takeJitter_err (s : State) : (s.takeJitter).err = s.err := rfl
@[simp] theorem takeJitter_errCode (s : State) : (s.takeJitter).errCode = s.errCode := rfl
@[simp] theorem takeJitter_ie (s : State) : (s.takeJitter).ie = s.ie := rfl
@[simp] theorem takeJitter_bufAddr (s : State) : (s.takeJitter).bufAddr = s.bufAddr := rfl
@[simp] theorem takeJitter_bufLen (s : State) : (s.takeJitter).bufLen = s.bufLen := rfl
@[simp] theorem takeJitter_keyAddr (s : State) : (s.takeJitter).keyAddr = s.keyAddr := rfl
@[simp] theorem takeJitter_keyLen (s : State) : (s.takeJitter).keyLen = s.keyLen := rfl
@[simp] theorem takeJitter_seed (s : State) : (s.takeJitter).seed = s.seed := rfl
@[simp] theorem takeJitter_result (s : State) : (s.takeJitter).result = s.result := rfl
@[simp] theorem takeJitter_bmem (s : State) : (s.takeJitter).bmem = s.bmem := rfl
@[simp] theorem takeJitter_pool (s : State) : (s.takeJitter).pool = s.pool := rfl
@[simp] theorem takeJitter_lcg (s : State) : (s.takeJitter).lcg = s.lcg := rfl
@[simp] theorem takeJitter_trace (s : State) : (s.takeJitter).trace = s.trace := rfl
@[simp] theorem takeJitter_tmp (s : State) : (s.takeJitter).tmp = s.tmp := rfl
@[simp] theorem takeJitter_curCmd (s : State) : (s.takeJitter).curCmd = s.curCmd := rfl
@[simp] theorem takeJitter_rst (s : State) : (s.takeJitter).rst = s.rst := rfl
@[simp] theorem takeJitter_pending (s : State) : (s.takeJitter).pending = s.pending := rfl
@[simp] theorem takeJitter_replies (s : State) : (s.takeJitter).replies = s.replies := rfl
@[simp] theorem takeJitter_weakIn (s : State) : (s.takeJitter).weakIn = s.weakIn := rfl
@[simp] theorem takeJitter_weakCount (s : State) : (s.takeJitter).weakCount = s.weakCount := rfl
@[simp] theorem takeJitter_jitterIn (s : State) : (s.takeJitter).jitterIn = s.jitterIn.drop 1 := rfl
@[simp] theorem takeJitter_jitterCount (s : State) : (s.takeJitter).jitterCount = s.jitterCount + 1 := rfl
@[simp] theorem takeJitter_headStarts (s : State) : (s.takeJitter).headStarts = s.headStarts := rfl
@[simp] theorem takeJitter_headStartCount (s : State) : (s.takeJitter).headStartCount = s.headStartCount := rfl
@[simp] theorem takeJitter_hostMoves (s : State) : (s.takeJitter).hostMoves = s.hostMoves := rfl

/-! ### hostTurn -/

@[simp] theorem hostTurn_cfg (s : State) : (s.hostTurn).cfg = s.cfg := rfl
@[simp] theorem hostTurn_busy (s : State) : (s.hostTurn).busy = s.busy := rfl
@[simp] theorem hostTurn_done (s : State) : (s.hostTurn).done = s.done := rfl
@[simp] theorem hostTurn_err (s : State) : (s.hostTurn).err = s.err := rfl
@[simp] theorem hostTurn_errCode (s : State) : (s.hostTurn).errCode = s.errCode := rfl
@[simp] theorem hostTurn_ie (s : State) : (s.hostTurn).ie = s.ie := rfl
@[simp] theorem hostTurn_bufAddr (s : State) : (s.hostTurn).bufAddr = s.bufAddr := rfl
@[simp] theorem hostTurn_bufLen (s : State) : (s.hostTurn).bufLen = s.bufLen := rfl
@[simp] theorem hostTurn_keyAddr (s : State) : (s.hostTurn).keyAddr = s.keyAddr := rfl
@[simp] theorem hostTurn_keyLen (s : State) : (s.hostTurn).keyLen = s.keyLen := rfl
@[simp] theorem hostTurn_seed (s : State) : (s.hostTurn).seed = s.seed := rfl
@[simp] theorem hostTurn_result (s : State) : (s.hostTurn).result = s.result := rfl
@[simp] theorem hostTurn_bmem (s : State) : (s.hostTurn).bmem = s.bmem := rfl
@[simp] theorem hostTurn_pool (s : State) : (s.hostTurn).pool = s.pool := rfl
@[simp] theorem hostTurn_lcg (s : State) : (s.hostTurn).lcg = s.lcg := rfl
@[simp] theorem hostTurn_trace (s : State) : (s.hostTurn).trace = s.trace := rfl
@[simp] theorem hostTurn_tmp (s : State) : (s.hostTurn).tmp = s.tmp := rfl
@[simp] theorem hostTurn_curCmd (s : State) : (s.hostTurn).curCmd = s.curCmd := rfl
@[simp] theorem hostTurn_rst (s : State) : (s.hostTurn).rst = s.rst := rfl
@[simp] theorem hostTurn_pending (s : State) : (s.hostTurn).pending = s.pending := rfl
@[simp] theorem hostTurn_replies (s : State) : (s.hostTurn).replies = s.replies := rfl
@[simp] theorem hostTurn_weakIn (s : State) : (s.hostTurn).weakIn = s.weakIn := rfl
@[simp] theorem hostTurn_weakCount (s : State) : (s.hostTurn).weakCount = s.weakCount := rfl
@[simp] theorem hostTurn_jitterIn (s : State) : (s.hostTurn).jitterIn = s.jitterIn := rfl
@[simp] theorem hostTurn_jitterCount (s : State) : (s.hostTurn).jitterCount = s.jitterCount := rfl
@[simp] theorem hostTurn_headStarts (s : State) : (s.hostTurn).headStarts = s.headStarts := rfl
@[simp] theorem hostTurn_headStartCount (s : State) : (s.hostTurn).headStartCount = s.headStartCount := rfl
@[simp] theorem hostTurn_hostMoves (s : State) : (s.hostTurn).hostMoves = s.hostMoves + 1 := rfl

/-! ### engineTurn -/

@[simp] theorem engineTurn_cfg (s : State) : (s.engineTurn).cfg = s.cfg := rfl
@[simp] theorem engineTurn_busy (s : State) : (s.engineTurn).busy = s.busy := rfl
@[simp] theorem engineTurn_done (s : State) : (s.engineTurn).done = s.done := rfl
@[simp] theorem engineTurn_err (s : State) : (s.engineTurn).err = s.err := rfl
@[simp] theorem engineTurn_errCode (s : State) : (s.engineTurn).errCode = s.errCode := rfl
@[simp] theorem engineTurn_ie (s : State) : (s.engineTurn).ie = s.ie := rfl
@[simp] theorem engineTurn_bufAddr (s : State) : (s.engineTurn).bufAddr = s.bufAddr := rfl
@[simp] theorem engineTurn_bufLen (s : State) : (s.engineTurn).bufLen = s.bufLen := rfl
@[simp] theorem engineTurn_keyAddr (s : State) : (s.engineTurn).keyAddr = s.keyAddr := rfl
@[simp] theorem engineTurn_keyLen (s : State) : (s.engineTurn).keyLen = s.keyLen := rfl
@[simp] theorem engineTurn_seed (s : State) : (s.engineTurn).seed = s.seed := rfl
@[simp] theorem engineTurn_result (s : State) : (s.engineTurn).result = s.result := rfl
@[simp] theorem engineTurn_bmem (s : State) : (s.engineTurn).bmem = s.bmem := rfl
@[simp] theorem engineTurn_pool (s : State) : (s.engineTurn).pool = s.pool := rfl
@[simp] theorem engineTurn_lcg (s : State) : (s.engineTurn).lcg = s.lcg := rfl
@[simp] theorem engineTurn_trace (s : State) : (s.engineTurn).trace = s.trace := rfl
@[simp] theorem engineTurn_tmp (s : State) : (s.engineTurn).tmp = s.tmp := rfl
@[simp] theorem engineTurn_curCmd (s : State) : (s.engineTurn).curCmd = s.curCmd := rfl
@[simp] theorem engineTurn_rst (s : State) : (s.engineTurn).rst = s.rst := rfl
@[simp] theorem engineTurn_pending (s : State) : (s.engineTurn).pending = s.pending := rfl
@[simp] theorem engineTurn_replies (s : State) : (s.engineTurn).replies = s.replies := rfl
@[simp] theorem engineTurn_weakIn (s : State) : (s.engineTurn).weakIn = s.weakIn := rfl
@[simp] theorem engineTurn_weakCount (s : State) : (s.engineTurn).weakCount = s.weakCount := rfl
@[simp] theorem engineTurn_jitterIn (s : State) : (s.engineTurn).jitterIn = s.jitterIn := rfl
@[simp] theorem engineTurn_jitterCount (s : State) : (s.engineTurn).jitterCount = s.jitterCount := rfl
@[simp] theorem engineTurn_headStarts (s : State) : (s.engineTurn).headStarts = s.headStarts.drop 1 := rfl
@[simp] theorem engineTurn_headStartCount (s : State) : (s.engineTurn).headStartCount = s.headStartCount + 1 := rfl
@[simp] theorem engineTurn_hostMoves (s : State) : (s.engineTurn).hostMoves = 0 := rfl

/-! ### answer -/

@[simp] theorem answer_cfg (s : State) (w : Word) : (s.answer w).cfg = s.cfg := rfl
@[simp] theorem answer_busy (s : State) (w : Word) : (s.answer w).busy = s.busy := rfl
@[simp] theorem answer_done (s : State) (w : Word) : (s.answer w).done = s.done := rfl
@[simp] theorem answer_err (s : State) (w : Word) : (s.answer w).err = s.err := rfl
@[simp] theorem answer_errCode (s : State) (w : Word) : (s.answer w).errCode = s.errCode := rfl
@[simp] theorem answer_ie (s : State) (w : Word) : (s.answer w).ie = s.ie := rfl
@[simp] theorem answer_bufAddr (s : State) (w : Word) : (s.answer w).bufAddr = s.bufAddr := rfl
@[simp] theorem answer_bufLen (s : State) (w : Word) : (s.answer w).bufLen = s.bufLen := rfl
@[simp] theorem answer_keyAddr (s : State) (w : Word) : (s.answer w).keyAddr = s.keyAddr := rfl
@[simp] theorem answer_keyLen (s : State) (w : Word) : (s.answer w).keyLen = s.keyLen := rfl
@[simp] theorem answer_seed (s : State) (w : Word) : (s.answer w).seed = s.seed := rfl
@[simp] theorem answer_result (s : State) (w : Word) : (s.answer w).result = s.result := rfl
@[simp] theorem answer_bmem (s : State) (w : Word) : (s.answer w).bmem = s.bmem := rfl
@[simp] theorem answer_pool (s : State) (w : Word) : (s.answer w).pool = s.pool := rfl
@[simp] theorem answer_lcg (s : State) (w : Word) : (s.answer w).lcg = s.lcg := rfl
@[simp] theorem answer_trace (s : State) (w : Word) : (s.answer w).trace = s.trace := rfl
@[simp] theorem answer_tmp (s : State) (w : Word) : (s.answer w).tmp = s.tmp := rfl
@[simp] theorem answer_curCmd (s : State) (w : Word) : (s.answer w).curCmd = s.curCmd := rfl
@[simp] theorem answer_rst (s : State) (w : Word) : (s.answer w).rst = s.rst := rfl
@[simp] theorem answer_pending (s : State) (w : Word) : (s.answer w).pending = s.pending := rfl
@[simp] theorem answer_replies (s : State) (w : Word) : (s.answer w).replies = w :: s.replies := rfl
@[simp] theorem answer_weakIn (s : State) (w : Word) : (s.answer w).weakIn = s.weakIn := rfl
@[simp] theorem answer_weakCount (s : State) (w : Word) : (s.answer w).weakCount = s.weakCount := rfl
@[simp] theorem answer_jitterIn (s : State) (w : Word) : (s.answer w).jitterIn = s.jitterIn := rfl
@[simp] theorem answer_jitterCount (s : State) (w : Word) : (s.answer w).jitterCount = s.jitterCount := rfl
@[simp] theorem answer_headStarts (s : State) (w : Word) : (s.answer w).headStarts = s.headStarts := rfl
@[simp] theorem answer_headStartCount (s : State) (w : Word) : (s.answer w).headStartCount = s.headStartCount := rfl
@[simp] theorem answer_hostMoves (s : State) (w : Word) : (s.answer w).hostMoves = s.hostMoves := rfl

/-! ### dequeue -/

@[simp] theorem dequeue_cfg (s : State) : (s.dequeue).cfg = s.cfg := rfl
@[simp] theorem dequeue_busy (s : State) : (s.dequeue).busy = s.busy := rfl
@[simp] theorem dequeue_done (s : State) : (s.dequeue).done = s.done := rfl
@[simp] theorem dequeue_err (s : State) : (s.dequeue).err = s.err := rfl
@[simp] theorem dequeue_errCode (s : State) : (s.dequeue).errCode = s.errCode := rfl
@[simp] theorem dequeue_ie (s : State) : (s.dequeue).ie = s.ie := rfl
@[simp] theorem dequeue_bufAddr (s : State) : (s.dequeue).bufAddr = s.bufAddr := rfl
@[simp] theorem dequeue_bufLen (s : State) : (s.dequeue).bufLen = s.bufLen := rfl
@[simp] theorem dequeue_keyAddr (s : State) : (s.dequeue).keyAddr = s.keyAddr := rfl
@[simp] theorem dequeue_keyLen (s : State) : (s.dequeue).keyLen = s.keyLen := rfl
@[simp] theorem dequeue_seed (s : State) : (s.dequeue).seed = s.seed := rfl
@[simp] theorem dequeue_result (s : State) : (s.dequeue).result = s.result := rfl
@[simp] theorem dequeue_bmem (s : State) : (s.dequeue).bmem = s.bmem := rfl
@[simp] theorem dequeue_pool (s : State) : (s.dequeue).pool = s.pool := rfl
@[simp] theorem dequeue_lcg (s : State) : (s.dequeue).lcg = s.lcg := rfl
@[simp] theorem dequeue_trace (s : State) : (s.dequeue).trace = s.trace := rfl
@[simp] theorem dequeue_tmp (s : State) : (s.dequeue).tmp = s.tmp := rfl
@[simp] theorem dequeue_curCmd (s : State) : (s.dequeue).curCmd = s.curCmd := rfl
@[simp] theorem dequeue_rst (s : State) : (s.dequeue).rst = s.rst := rfl
@[simp] theorem dequeue_pending (s : State) : (s.dequeue).pending = s.pending.drop 1 := rfl
@[simp] theorem dequeue_replies (s : State) : (s.dequeue).replies = s.replies := rfl
@[simp] theorem dequeue_weakIn (s : State) : (s.dequeue).weakIn = s.weakIn := rfl
@[simp] theorem dequeue_weakCount (s : State) : (s.dequeue).weakCount = s.weakCount := rfl
@[simp] theorem dequeue_jitterIn (s : State) : (s.dequeue).jitterIn = s.jitterIn := rfl
@[simp] theorem dequeue_jitterCount (s : State) : (s.dequeue).jitterCount = s.jitterCount := rfl
@[simp] theorem dequeue_headStarts (s : State) : (s.dequeue).headStarts = s.headStarts := rfl
@[simp] theorem dequeue_headStartCount (s : State) : (s.dequeue).headStartCount = s.headStartCount := rfl
@[simp] theorem dequeue_hostMoves (s : State) : (s.dequeue).hostMoves = s.hostMoves := rfl

/-! ### issue -/

@[simp] theorem issue_cfg (s : State) (a : Access) : (s.issue a).cfg = s.cfg := rfl
@[simp] theorem issue_busy (s : State) (a : Access) : (s.issue a).busy = s.busy := rfl
@[simp] theorem issue_done (s : State) (a : Access) : (s.issue a).done = s.done := rfl
@[simp] theorem issue_err (s : State) (a : Access) : (s.issue a).err = s.err := rfl
@[simp] theorem issue_errCode (s : State) (a : Access) : (s.issue a).errCode = s.errCode := rfl
@[simp] theorem issue_ie (s : State) (a : Access) : (s.issue a).ie = s.ie := rfl
@[simp] theorem issue_bufAddr (s : State) (a : Access) : (s.issue a).bufAddr = s.bufAddr := rfl
@[simp] theorem issue_bufLen (s : State) (a : Access) : (s.issue a).bufLen = s.bufLen := rfl
@[simp] theorem issue_keyAddr (s : State) (a : Access) : (s.issue a).keyAddr = s.keyAddr := rfl
@[simp] theorem issue_keyLen (s : State) (a : Access) : (s.issue a).keyLen = s.keyLen := rfl
@[simp] theorem issue_seed (s : State) (a : Access) : (s.issue a).seed = s.seed := rfl
@[simp] theorem issue_result (s : State) (a : Access) : (s.issue a).result = s.result := rfl
@[simp] theorem issue_bmem (s : State) (a : Access) : (s.issue a).bmem = s.bmem := rfl
@[simp] theorem issue_pool (s : State) (a : Access) : (s.issue a).pool = s.pool := rfl
@[simp] theorem issue_lcg (s : State) (a : Access) : (s.issue a).lcg = s.lcg := rfl
@[simp] theorem issue_trace (s : State) (a : Access) : (s.issue a).trace = s.trace := rfl
@[simp] theorem issue_tmp (s : State) (a : Access) : (s.issue a).tmp = s.tmp := rfl
@[simp] theorem issue_curCmd (s : State) (a : Access) : (s.issue a).curCmd = s.curCmd := rfl
@[simp] theorem issue_rst (s : State) (a : Access) : (s.issue a).rst = s.rst := rfl
@[simp] theorem issue_pending (s : State) (a : Access) : (s.issue a).pending = s.pending ++ [a] := rfl
@[simp] theorem issue_replies (s : State) (a : Access) : (s.issue a).replies = s.replies := rfl
@[simp] theorem issue_weakIn (s : State) (a : Access) : (s.issue a).weakIn = s.weakIn := rfl
@[simp] theorem issue_weakCount (s : State) (a : Access) : (s.issue a).weakCount = s.weakCount := rfl
@[simp] theorem issue_jitterIn (s : State) (a : Access) : (s.issue a).jitterIn = s.jitterIn := rfl
@[simp] theorem issue_jitterCount (s : State) (a : Access) : (s.issue a).jitterCount = s.jitterCount := rfl
@[simp] theorem issue_headStarts (s : State) (a : Access) : (s.issue a).headStarts = s.headStarts := rfl
@[simp] theorem issue_headStartCount (s : State) (a : Access) : (s.issue a).headStartCount = s.headStartCount := rfl
@[simp] theorem issue_hostMoves (s : State) (a : Access) : (s.issue a).hostMoves = s.hostMoves := rfl

/-! ### What the operand regions and checks depend on -/

theorem bufA_congr {s t : State} (h : t.bufAddr = s.bufAddr) : t.bufA = s.bufA := by simp only [bufA, h]

theorem bufN_congr {s t : State} (h : t.bufLen = s.bufLen) : t.bufN = s.bufN := by simp only [bufN, h]

theorem keyA_congr {s t : State} (h : t.keyAddr = s.keyAddr) : t.keyA = s.keyA := by simp only [keyA, h]

theorem keyN_congr {s t : State} (h : t.keyLen = s.keyLen) : t.keyN = s.keyN := by simp only [keyN, h]

theorem bufInRange_iff (s : State) : s.bufInRange = true ↔ s.bufN = 0 ∨ s.bufA + s.bufN ≤ s.cfg.bmemSize := by
  simp [bufInRange, inRange]

theorem keyInRange_iff (s : State) : s.keyInRange = true ↔ s.keyN = 0 ∨ s.keyA + s.keyN ≤ s.cfg.bmemSize := by
  simp [keyInRange, inRange]

theorem regionsOverlap_eq_false_iff (s : State) (hb : 0 < s.bufN) (hk : 0 < s.keyN) :
    s.regionsOverlap = false ↔ s.keyA + s.keyN ≤ s.bufA ∨ s.bufA + s.bufN ≤ s.keyA := by
  simp only [regionsOverlap, overlap, hb, hk, decide_true, Bool.true_and, Bool.and_eq_false_iff, decide_eq_false_iff_not]
  omega

/-! ### The regions after an update that leaves the operand registers alone -/

@[simp] theorem takeWeak_bufA (s : State) (n : Nat) : (s.takeWeak n).bufA = s.bufA := rfl
@[simp] theorem takeWeak_bufN (s : State) (n : Nat) : (s.takeWeak n).bufN = s.bufN := rfl
@[simp] theorem takeWeak_keyA (s : State) (n : Nat) : (s.takeWeak n).keyA = s.keyA := rfl
@[simp] theorem takeWeak_keyN (s : State) (n : Nat) : (s.takeWeak n).keyN = s.keyN := rfl
@[simp] theorem takeWeak_bufInRange (s : State) (n : Nat) : (s.takeWeak n).bufInRange = s.bufInRange := rfl
@[simp] theorem takeWeak_keyInRange (s : State) (n : Nat) : (s.takeWeak n).keyInRange = s.keyInRange := rfl
@[simp] theorem takeWeak_regionsOverlap (s : State) (n : Nat) : (s.takeWeak n).regionsOverlap = s.regionsOverlap := rfl

@[simp] theorem hostTurn_bufA (s : State) : (s.hostTurn).bufA = s.bufA := rfl
@[simp] theorem engineTurn_bufA (s : State) : (s.engineTurn).bufA = s.bufA := rfl
@[simp] theorem hostTurn_bufN (s : State) : (s.hostTurn).bufN = s.bufN := rfl
@[simp] theorem engineTurn_bufN (s : State) : (s.engineTurn).bufN = s.bufN := rfl
@[simp] theorem hostTurn_keyA (s : State) : (s.hostTurn).keyA = s.keyA := rfl
@[simp] theorem engineTurn_keyA (s : State) : (s.engineTurn).keyA = s.keyA := rfl
@[simp] theorem hostTurn_keyN (s : State) : (s.hostTurn).keyN = s.keyN := rfl
@[simp] theorem engineTurn_keyN (s : State) : (s.engineTurn).keyN = s.keyN := rfl
@[simp] theorem hostTurn_bufInRange (s : State) : (s.hostTurn).bufInRange = s.bufInRange := rfl
@[simp] theorem engineTurn_bufInRange (s : State) : (s.engineTurn).bufInRange = s.bufInRange := rfl
@[simp] theorem hostTurn_keyInRange (s : State) : (s.hostTurn).keyInRange = s.keyInRange := rfl
@[simp] theorem engineTurn_keyInRange (s : State) : (s.engineTurn).keyInRange = s.keyInRange := rfl
@[simp] theorem hostTurn_regionsOverlap (s : State) : (s.hostTurn).regionsOverlap = s.regionsOverlap := rfl
@[simp] theorem engineTurn_regionsOverlap (s : State) : (s.engineTurn).regionsOverlap = s.regionsOverlap := rfl

@[simp] theorem withLcg_bufA (s : State) (w : Word) : (s.withLcg w).bufA = s.bufA := rfl
@[simp] theorem withLcg_bufN (s : State) (w : Word) : (s.withLcg w).bufN = s.bufN := rfl
@[simp] theorem withLcg_keyA (s : State) (w : Word) : (s.withLcg w).keyA = s.keyA := rfl
@[simp] theorem withLcg_keyN (s : State) (w : Word) : (s.withLcg w).keyN = s.keyN := rfl
@[simp] theorem withLcg_bufInRange (s : State) (w : Word) : (s.withLcg w).bufInRange = s.bufInRange := rfl
@[simp] theorem withLcg_keyInRange (s : State) (w : Word) : (s.withLcg w).keyInRange = s.keyInRange := rfl
@[simp] theorem withLcg_regionsOverlap (s : State) (w : Word) : (s.withLcg w).regionsOverlap = s.regionsOverlap := rfl

@[simp] theorem complete_bufA (s : State) : (s.complete).bufA = s.bufA := rfl
@[simp] theorem complete_bufN (s : State) : (s.complete).bufN = s.bufN := rfl
@[simp] theorem complete_keyA (s : State) : (s.complete).keyA = s.keyA := rfl
@[simp] theorem complete_keyN (s : State) : (s.complete).keyN = s.keyN := rfl
@[simp] theorem complete_bufInRange (s : State) : (s.complete).bufInRange = s.bufInRange := rfl
@[simp] theorem complete_keyInRange (s : State) : (s.complete).keyInRange = s.keyInRange := rfl
@[simp] theorem complete_regionsOverlap (s : State) : (s.complete).regionsOverlap = s.regionsOverlap := rfl

/-! ### The host's head start -/

@[simp] theorem hostTurn_headStart (s : State) : s.hostTurn.headStart = s.headStart := rfl
@[simp] theorem dequeue_headStart (s : State) : s.dequeue.headStart = s.headStart := rfl
@[simp] theorem issue_headStart (s : State) (a : Access) : (s.issue a).headStart = s.headStart := rfl

theorem nextAgent_eq_host {s : State} : s.nextAgent = .host ↔ s.hostMoves < s.headStart := by
  unfold nextAgent; split <;> simp_all

theorem nextAgent_eq_engine {s : State} : s.nextAgent = .engine ↔ s.headStart ≤ s.hostMoves := by
  unfold nextAgent; split <;> simp_all

theorem turnAfterReset_of_busy {s : State} (h : s.busy = true) : s.turnAfterReset = s.engineTurn := by
  simp [turnAfterReset, h]

theorem turnAfterReset_of_idle {s : State} (h : s.busy = false) : s.turnAfterReset = s := by
  simp [turnAfterReset, h]

/-! ### The free reset value of POOL -/

@[simp] theorem nonZero_ne_zero (w : Word) : Config.nonZero w ≠ 0#32 := by
  unfold Config.nonZero; split
  · decide
  · assumption

theorem default_wellFormed : Config.default.wellFormed = true := by
  simp [Config.wellFormed, Config.sizeOk, Config.poolInitOk, Config.default, Config.freePoolInit]

end Sys2Proof.Machine.State
end

