-- ==== Sys2Proof/Laws/Commands.lean ====
section
/-! SUPPORT. What the loops of the commands do, and how a command ends. -/

namespace Sys2Proof.Machine

/-! ### Loop bodies -/

theorem maskByte_eq_ok {a ka kl : Nat} {m : Memory} {i x : Nat} {b : Byte} :
    maskByte a ka kl m i = .ok (x, b) ↔
      ∃ k v, Sparse.read m (ka + i % kl) = some k ∧ Sparse.read m (a + i) = some v ∧ x = a + i ∧ b = v ^^^ k := by
  unfold maskByte Sparse.fetch
  cases Sparse.read m (ka + i % kl) <;> cases Sparse.read m (a + i) <;> simp [eq_comm]

theorem maskByte_eq_error {a ka kl : Nat} {m : Memory} {i e : Nat} (h : maskByte a ka kl m i = .error e) :
    (e = ka + i % kl ∨ e = a + i) ∧ Sparse.read m e = none := by
  unfold maskByte Sparse.fetch at h
  cases hk : Sparse.read m (ka + i % kl) <;> cases hb : Sparse.read m (a + i) <;> simp [hk, hb] at h <;> subst h <;> simp [hk, hb]

theorem mapByte_eq_ok {f : Byte → Byte} {a : Nat} {m : Memory} {i x : Nat} {b : Byte} :
    mapByte f a m i = .ok (x, b) ↔ ∃ v, Sparse.read m (a + i) = some v ∧ x = a + i ∧ b = f v := by
  unfold mapByte Sparse.fetch
  cases Sparse.read m (a + i) <;> simp [eq_comm]

theorem mapByte_eq_error {f : Byte → Byte} {a : Nat} {m : Memory} {i e : Nat} (h : mapByte f a m i = .error e) :
    e = a + i ∧ Sparse.read m e = none := by
  unfold mapByte Sparse.fetch at h
  cases hb : Sparse.read m (a + i) <;> simp [hb] at h; subst h; simp [hb]

/-! ### CHECKSUM's loop -/

theorem sumLoop_written {m : Memory} {n a : Nat} (acc : Word) (hw : Written m a n) :
    sumLoop m n a acc = .ok (acc + BitVec.ofNat 32 ((regionBytes m a n).map BitVec.toNat).sum) := by
  induction n generalizing a acc with
  | zero => simp [sumLoop, regionBytes]
  | succ n ih =>
    obtain ⟨b, hb⟩ := hw 0 (by omega)
    have hw' : Written m (a + 1) n := fun i hi => by
      obtain ⟨c, hc⟩ := hw (i + 1) (by omega)
      exact ⟨c, by rw [← hc]; congr 1; omega⟩
    have hr : regionBytes m a (n + 1) = b :: regionBytes m (a + 1) n := by
      simp only [regionBytes, List.range_succ_eq_map, List.map_cons, List.map_map, hb, Option.getD_some]
      congr 1
      refine List.map_congr_left fun i _ => ?_
      simp only [Function.comp_apply]
      congr 2
      omega
    rw [Nat.add_zero] at hb
    simp only [sumLoop, Sparse.fetch, hb, ih _ hw', hr, List.map_cons, List.sum_cons]
    congr 1
    rw [BitVec.add_assoc]
    congr 1
    apply BitVec.eq_of_toNat_eq
    simp

theorem sumLoop_error {m : Memory} {n a e : Nat} {acc : Word} (h : sumLoop m n a acc = .error e) :
    InRegion a n e ∧ Sparse.read m e = none := by
  induction n generalizing a acc with
  | zero => simp [sumLoop] at h
  | succ n ih =>
    simp only [sumLoop] at h
    split at h
    · have := ih h; exact ⟨⟨by have := this.1.1; omega, by have := this.1.2; omega⟩, this.2⟩
    · rename_i x hx
      cases h
      rw [Sparse.fetch_error] at hx
      obtain ⟨rfl, hn⟩ := hx
      exact ⟨⟨by omega, by omega⟩, hn⟩

theorem sumLoop_unwritten {m : Memory} {n a k : Nat} {acc : Word} (hk : k < n) (hw : Written m a k)
    (hn : Sparse.read m (a + k) = none) : sumLoop m n a acc = .error (a + k) := by
  induction n generalizing a k acc with
  | zero => omega
  | succ n ih =>
    cases k with
    | zero => simp only [Nat.add_zero] at hn; simp [sumLoop, Sparse.fetch, hn]
    | succ k =>
      obtain ⟨b, hb⟩ := hw 0 (by omega)
      rw [Nat.add_zero] at hb
      simp only [sumLoop, Sparse.fetch, hb]
      rw [ih (a := a + 1) (k := k) (by omega) (fun i hi => ?_) (by rw [← hn]; congr 1; omega)]
      · congr 1; omega
      · obtain ⟨c, hc⟩ := hw (i + 1) (by omega)
        exact ⟨c, by rw [← hc]; congr 1; omega⟩

/-! ### How a command ends -/

theorem finishBmem_eq_next {s t : State} {r : Except Nat Memory} :
    s.finishBmem r = .next t ↔ ∃ m, r = .ok m ∧ t = (s.withBmem m).complete := by
  cases r <;> simp [State.finishBmem, eq_comm]

theorem finishBmem_eq_fault {s : State} {r : Except Nat Memory} {f : Fault} :
    s.finishBmem r = .fault f ↔ ∃ x, r = .error x ∧ f = .unwrittenRead x := by
  cases r <;> simp [State.finishBmem, eq_comm]

theorem finishBmem_ne_refused {s : State} {r : Except Nat Memory} {q : Refusal} : s.finishBmem r ≠ .refused q := by
  cases r <;> simp [State.finishBmem]

/-- Everything MASK can do. -/
theorem execMask_cases (s : State) :
    (execMask s = .next s.complete ∧ (s.keyN = 0 ∨ s.bufN = 0)) ∨
    (s.keyN ≠ 0 ∧ s.bufN ≠ 0 ∧ execMask s = .next (s.cmdError .range) ∧ (s.bufInRange = false ∨ s.keyInRange = false)) ∨
    (s.keyN ≠ 0 ∧ s.bufN ≠ 0 ∧ s.bufInRange = true ∧ s.keyInRange = true ∧ s.regionsOverlap = true ∧
      execMask s = .next (s.cmdError .overlap)) ∨
    (s.keyN ≠ 0 ∧ s.bufN ≠ 0 ∧ s.bufInRange = true ∧ s.keyInRange = true ∧ s.regionsOverlap = false ∧
      execMask s = s.finishBmem (Sparse.storeLoop (maskByte s.bufA s.keyA s.keyN) s.bufN 0 s.bmem)) := by
  unfold execMask
  by_cases h1 : s.keyN = 0
  · simp [h1]
  by_cases h2 : s.bufN = 0
  · simp [h1, h2]
  cases h3 : s.bufInRange
  · simp [h1, h2]
  cases h4 : s.keyInRange
  · simp [h1, h2]
  cases h5 : s.regionsOverlap <;> simp [h1, h2]

/-- Everything a command that maps the buffer region can do. -/
theorem mapBuffer_cases (f : Byte → Byte) (s : State) :
    (mapBuffer f s = .next s.complete ∧ s.bufN = 0) ∨
    (s.bufN ≠ 0 ∧ s.bufInRange = false ∧ mapBuffer f s = .next (s.cmdError .range)) ∨
    (s.bufN ≠ 0 ∧ s.bufInRange = true ∧
      mapBuffer f s = s.finishBmem (Sparse.storeLoop (mapByte f s.bufA) s.bufN 0 s.bmem)) := by
  unfold mapBuffer
  by_cases h2 : s.bufN = 0
  · simp [h2]
  cases h3 : s.bufInRange <;> simp [h2]

/-- Everything CHECKSUM can do. -/
theorem execChecksum_cases (s : State) :
    (execChecksum s = .next (s.withResult 0).complete ∧ s.bufN = 0) ∨
    (s.bufN ≠ 0 ∧ s.bufInRange = false ∧ execChecksum s = .next (s.cmdError .range)) ∨
    (s.bufN ≠ 0 ∧ s.bufInRange = true ∧ ∃ w, sumLoop s.bmem s.bufN s.bufA 0 = .ok w ∧
      execChecksum s = .next (s.withResult w).complete) ∨
    (s.bufN ≠ 0 ∧ s.bufInRange = true ∧ ∃ x, sumLoop s.bmem s.bufN s.bufA 0 = .error x ∧
      execChecksum s = .fault (.unwrittenRead x)) := by
  unfold execChecksum
  by_cases h2 : s.bufN = 0
  · simp [h2]
  cases h3 : s.bufInRange
  · simp [h2]
  cases h4 : sumLoop s.bmem s.bufN s.bufA 0 <;> simp [h2]

/-- Everything SHUFFLE can do. -/
theorem execShuffle_cases (s : State) :
    (execShuffle s = .next s.complete ∧ s.bufN < 2) ∨
    (2 ≤ s.bufN ∧ s.bufInRange = false ∧ execShuffle s = .next (s.cmdError .range)) ∨
    (2 ≤ s.bufN ∧ s.bufInRange = true ∧
      execShuffle s = (s.withLcg (lcgAfter (s.bufN - 1) s.seed)).finishBmem
        (Sparse.applySwaps s.bufA (swapSeq s.bufN s.seed) s.bmem)) := by
  unfold execShuffle
  by_cases h2 : s.bufN < 2
  · simp [h2]
  cases h3 : s.bufInRange <;> simp [h2] <;> omega

/-- Everything UNSHUFFLE can do. -/
theorem execUnshuffle_cases (s : State) :
    (execUnshuffle s = .next s.complete ∧ s.bufN < 2) ∨
    (2 ≤ s.bufN ∧ s.bufInRange = false ∧ execUnshuffle s = .next (s.cmdError .range)) ∨
    (2 ≤ s.bufN ∧ s.bufInRange = true ∧ ∃ u, unshuffleArrays s.bufA s.bufN s.seed s.trace s.tmp s.bmem = .ok u ∧
      execUnshuffle s =
        .next (((s.withLcg (lcgAfter (s.bufN - 1) s.seed)).withScratch u.trace u.tmp).withBmem u.bmem).complete) ∨
    (2 ≤ s.bufN ∧ s.bufInRange = true ∧ ∃ x, unshuffleArrays s.bufA s.bufN s.seed s.trace s.tmp s.bmem = .error x ∧
      execUnshuffle s = .fault (.unwrittenRead x)) := by
  unfold execUnshuffle
  by_cases h2 : s.bufN < 2
  · simp [h2]
  cases h3 : s.bufInRange
  · simp [h2]; omega
  cases h4 : unshuffleArrays s.bufA s.bufN s.seed s.trace s.tmp s.bmem <;> simp [h2] <;> omega

/-- Everything ENT_FILL can do. -/
theorem execEntFill_cases (s : State) :
    (execEntFill s = .next s.complete ∧ s.bufN = 0) ∨
    (s.bufN ≠ 0 ∧ s.bufInRange = false ∧ execEntFill s = .next (s.cmdError .range)) ∨
    (s.bufN ≠ 0 ∧ s.bufInRange = true ∧ execEntFill s = entFillWith s.weakDraw (s.takeWeak s.bufN)) := by
  unfold execEntFill
  by_cases h2 : s.bufN = 0
  · simp [h2]
  cases h3 : s.bufInRange <;> simp [h2]

/-- ENT_FILL's loop always finishes, with the low byte of draw k at a + k. -/
theorem fillLoop_ok (a n : Nat) (draw : Nat → Word) (m : Memory) :
    ∃ m', Sparse.storeLoop (fillByte a draw) n 0 m = .ok m' ∧
      (∀ k, k < n → Sparse.read m' (a + k) = some ((draw k).extractLsb' 0 8)) ∧
      (∀ x, ¬ InRegion a n x → Sparse.read m' x = Sparse.read m x) :=
  Sparse.storeLoop_region m fun _ _ _ _ => rfl

end Sys2Proof.Machine
end

