-- ==== Sys2Proof/Laws/PerInstr.lean ====
section
/-! SUPPORT. A statement about every instruction as syntax: its command word has zero reserved bits and an OP of the table (R53, R55). -/

namespace Sys2Proof.Laws.WordIsLegal

def Statement (i : Instr) : Prop := rsvdField (encode i) = 0 ∧ opField (encode i) = opcode i ∧ (opcode i).toNat ≤ 0x09

theorem nop : Statement .nop := by unfold Statement; decide
theorem mask : Statement .mask := by unfold Statement; decide
theorem scramble : Statement .scramble := by unfold Statement; decide
theorem deobfuscate : Statement .deobfuscate := by unfold Statement; decide
theorem checksum : Statement .checksum := by unfold Statement; decide
theorem shuffle : Statement .shuffle := by unfold Statement; decide
theorem unshuffle : Statement .unshuffle := by unfold Statement; decide
theorem entDraw : Statement .entDraw := by unfold Statement; decide
theorem entFill : Statement .entFill := by unfold Statement; decide
theorem entSeed : Statement .entSeed := by unfold Statement; decide

end Sys2Proof.Laws.WordIsLegal
end

