-- ==== Sys2Proof/Laws/Step.lean ====
section
/-! SUPPORT. Everything a host access, the engine and a step can do. -/

namespace Sys2Proof.Machine

theorem Access.held_eq_true {s : State} {a : Access} :
    a.held s = true ↔ s.busy = true ∧ a.legal s.cfg = true ∧ a.isStatusRead = false := by
  simp [Access.held, and_assoc]

theorem Access.isStatusRead_eq_true {a : Access} :
    a.isStatusRead = true ↔ a.space = .reg ∧ a.addr = 0x004 ∧ a.kind = .read := by
  simp [Access.isStatusRead, and_assoc]

theorem contended_eq_true {s : State} {a : Access} : contended s a = true ↔ s.busy = true ∧ a.held s = false := by
  simp [contended]

/-- Everything a host access that is not held can do. -/
theorem perform_cases (s : State) (a : Access) :
    (a.legal s.cfg = false ∧ s.perform a = .fault (.busError a.space a.addr a.width)) ∨
    (a.legal s.cfg = true ∧ a.space = .reg ∧ a.kind = .read ∧ s.perform a = .next (s.answer (regRead s a.addr))) ∨
    (∃ w, a.legal s.cfg = true ∧ a.space = .reg ∧ a.kind = .write w ∧ s.perform a = .next (regWrite s a.addr w)) ∨
    (∃ w, a.legal s.cfg = true ∧ a.space = .bmem ∧ a.kind = .read ∧
      memRead s.bmem a.addr a.width.bytes = .ok w ∧ s.perform a = .next (s.answer w)) ∨
    (∃ x, a.legal s.cfg = true ∧ a.space = .bmem ∧ a.kind = .read ∧
      memRead s.bmem a.addr a.width.bytes = .error x ∧ s.perform a = .fault (.unwrittenRead x)) ∨
    (∃ w, a.legal s.cfg = true ∧ a.space = .bmem ∧ a.kind = .write w ∧
      s.perform a = .next (s.withBmem (memWrite s.bmem a.addr a.width.bytes w))) := by
  cases hl : a.legal s.cfg
  · simp [State.perform, hl]
  cases hs : a.space <;> cases hk : a.kind
  · simp [State.perform, hl, hs, State.performReg, hk]
  · simp [State.perform, hl, hs, State.performReg, hk]
  · cases hm : memRead s.bmem a.addr a.width.bytes <;> simp [State.perform, hl, hs, State.performBmem, hk, hm]
  · simp [State.perform, hl, hs, State.performBmem, hk]

/-- Everything a register write can do. -/
theorem regWrite_cases (s : State) (off : Nat) (w : Word) :
    regWrite s off w = s ∨ regWrite s off w = s.accept w ∨ regWrite s off w = s.writeStatus w ∨
    regWrite s off w = s.writeCtrl w ∨ regWrite s off w = { s with bufAddr := w } ∨ regWrite s off w = { s with bufLen := w } ∨
    regWrite s off w = { s with keyAddr := w } ∨ regWrite s off w = { s with keyLen := w } ∨
    regWrite s off w = { s with seed := w } := by
  unfold regWrite
  cases regAt off with
  | none => simp
  | some r => cases r <;> simp [State.writeReg]

/-- A register read does not look at POOL (R96). -/
theorem regRead_withPool (s : State) (p : Pool) (off : Nat) : regRead { s with pool := p } off = regRead s off := by
  unfold regRead
  cases regAt off with
  | none => rfl
  | some r => cases r <;> rfl

/-- Everything the engine can do. -/
theorem engineStep_cases (s : State) :
    (∃ i, decode s.curCmd = .ok i ∧ engineStep s = exec i s) ∨
    (∃ e, decode s.curCmd = .error e ∧ engineStep s = .next (s.cmdError .illegal)) := by
  unfold engineStep
  cases h : decode s.curCmd <;> simp

/-- Everything a step can do: the release, the engine's move with or without a choice, idleness, or one host access. -/
theorem step_cases (s : State) :
    (s.rst = true ∧ step s = .next s.release) ∨
    (s.rst = false ∧ s.busy = true ∧ s.pending = [] ∧ step s = engineMove s) ∨
    (s.rst = false ∧ s.busy = false ∧ s.pending = [] ∧ step s = .next s) ∨
    (∃ a rest, s.rst = false ∧ s.busy = true ∧ s.pending = a :: rest ∧ a.held s = true ∧ step s = engineMove s) ∨
    (∃ a rest, s.rst = false ∧ s.busy = true ∧ s.pending = a :: rest ∧ a.held s = false ∧ s.headStart ≤ s.hostMoves ∧
      step s = engineMove s) ∨
    (∃ a rest, s.rst = false ∧ s.busy = true ∧ s.pending = a :: rest ∧ a.held s = false ∧ s.hostMoves < s.headStart ∧
      step s = s.hostTurn.dequeue.perform a) ∨
    (∃ a rest, s.rst = false ∧ s.busy = false ∧ s.pending = a :: rest ∧ step s = s.dequeue.perform a) := by
  cases hr : s.rst
  case true => simp [step, blockStep, hr]
  cases hp : s.pending with
  | nil => cases hb : s.busy <;> simp [step, blockStep, agentStep, hr, hp, hb]
  | cons a rest =>
    cases hb : s.busy
    · have hh : a.held s = false := by simp [Access.held, hb]
      simp [step, blockStep, agentStep, hr, hp, hh, contended, hb]
    · cases hh : a.held s
      · by_cases hn : s.hostMoves < s.headStart
        · simp [step, blockStep, agentStep, hr, hp, hh, contended, hb, State.nextAgent, hn]
        · simp [step, blockStep, agentStep, hr, hp, hh, contended, hb, State.nextAgent, hn, Nat.le_of_not_lt hn]
      · simp [step, blockStep, agentStep, hr, hp, hh]

/-- While a command runs the host can only read STATUS: an access that is not held leaves the command running, its head start as it was. -/
theorem perform_of_busy {s t : State} {a : Access} (h : s.perform a = .next t) (hh : a.held s = false) (hb : s.busy = true) :
    t.busy = true ∧ t.rst = s.rst ∧ t.hostMoves = s.hostMoves ∧ t.headStart = s.headStart := by
  have hr : a.legal s.cfg = true → a.isStatusRead = true := by
    intro hl; simp [Access.held, hb, hl] at hh; exact hh
  rcases perform_cases s a with ⟨-, he⟩ | ⟨-, -, -, he⟩ | ⟨w, hl, -, hk, he⟩ | ⟨x, -, -, -, -, he⟩ | ⟨x, -, -, -, -, he⟩ |
    ⟨w, hl, hs, -, he⟩ <;> rw [he] at h <;> cases h
  · exact ⟨hb, rfl, rfl, rfl⟩
  · have := (Access.isStatusRead_eq_true.1 (hr hl)).2.2; simp [hk] at this
  · exact ⟨hb, rfl, rfl, rfl⟩
  · have := (Access.isStatusRead_eq_true.1 (hr hl)).1; simp [hs] at this

/-- Everything a step can do while a command runs: the engine moves, or the host makes one move of its head start. -/
theorem step_of_busy {s : State} (hr : s.rst = false) (hb : s.busy = true) :
    step s = engineMove s ∨
    ∃ a rest, s.pending = a :: rest ∧ a.held s = false ∧ s.hostMoves < s.headStart ∧ step s = s.hostTurn.dequeue.perform a := by
  rcases step_cases s with ⟨h, -⟩ | ⟨-, -, -, he⟩ | ⟨-, h, -⟩ | ⟨a, rest, -, -, -, -, he⟩ | ⟨a, rest, -, -, -, -, -, he⟩ |
    ⟨a, rest, -, -, hp, hh, hn, he⟩ | ⟨a, rest, -, h, -⟩
  · simp [hr] at h
  · exact .inl he
  · simp [hb] at h
  · exact .inl he
  · exact .inl he
  · exact .inr ⟨a, rest, hp, hh, hn, he⟩
  · simp [hb] at h

/-! ### Runs -/

@[simp] theorem runSteps_zero (s : State) : runSteps 0 s = .next s := rfl

theorem runSteps_succ_of_next {s t : State} (k : Nat) (h : step s = .next t) : runSteps (k + 1) s = runSteps k t := by
  simp [runSteps, h]

theorem runSteps_succ_of_fault {s : State} {f : Fault} (k : Nat) (h : step s = .fault f) : runSteps (k + 1) s = .fault f := by
  simp [runSteps, h]

theorem runSteps_succ_of_refused {s : State} {r : Refusal} (k : Nat) (h : step s = .refused r) :
    runSteps (k + 1) s = .refused r := by
  simp [runSteps, h]

theorem run_succ_of_next (M : Host.Core) {s t : M.State} (k : Nat) (h : M.step s = .next t) : M.run (k + 1) s = M.run k t := by
  simp only [Host.Core.run, h]

theorem run_succ_of_fault (M : Host.Core) {s : M.State} {f : M.Fault} (k : Nat) (h : M.step s = .fault f) :
    M.run (k + 1) s = .fault f := by
  simp only [Host.Core.run, h]

theorem run_succ_of_refused (M : Host.Core) {s : M.State} {r : M.Refusal} (k : Nat) (h : M.step s = .refused r) :
    M.run (k + 1) s = .refused r := by
  simp only [Host.Core.run, h]

/-- `runSteps` is the run of the host's interface. -/
theorem runSteps_eq_core_run (k : Nat) (s : State) : runSteps k s = Host.Core.run Sys2Proof.core k s := by
  induction k generalizing s with
  | zero => rfl
  | succ k ih =>
    cases h : step s with
    | next t => exact (runSteps_succ_of_next k h).trans ((ih t).trans (run_succ_of_next Sys2Proof.core k h).symm)
    | fault f => exact (runSteps_succ_of_fault k h).trans (run_succ_of_fault Sys2Proof.core k h).symm
    | refused r => exact (runSteps_succ_of_refused k h).trans (run_succ_of_refused Sys2Proof.core k h).symm

end Sys2Proof.Machine
end

