-- ==== Sys2Proof/Tests/Slice0.lean ====
section
/-! SUPPORT. The model's own tests, from the vectors of 95_test_vectors.md and the rules' examples,
and for every obligation with hypotheses a witness that meets them all together. -/

namespace Sys2Proof.Machine.Tests

/-! ### Small states -/

/-- The default parameters with a concrete pool and bases. -/
def cfg (size : Nat) (form : ScrambleForm) : Config := ⟨size, form, ⟨1, 2, 3, 4⟩, 0x10000000, 0x20000000⟩

/-- The bytes bs from address a on, everything else unwritten. -/
def bytesAt (a : Nat) (bs : List Byte) : Memory := (List.range bs.length).zip bs |>.map fun p => (a + p.1, p.2)

/-- After reset with the buffer registers written: a buffer (a, n). -/
def buf (a n : Word) (m : Memory) : State :=
  { State.resetWith (cfg 65536 .rotate) with bufAddr := a, bufLen := n, bmem := m }

/-- A buffer and a key. -/
def bufKey (a n ka kl : Word) (m : Memory) : State := { buf a n m with keyAddr := ka, keyLen := kl }

/-- The outcome of the step that runs the command word w, accepted in s. -/
def runWord (w : Word) (s : State) : Result := step (s.accept w)

/-- The next state has BMEM contents m and STATUS w. -/
def endsWith (m : Memory) (w : Word) : Result → Bool
  | .next t => t.bmem == m && t.statusWord == w && t.busy == false
  | _ => false

/-- The next state satisfies p. -/
def nextSat (p : State → Bool) : Result → Bool
  | .next t => p t
  | _ => false

/-- The outcome is the fault f. -/
def faultsWith (f : Fault) : Result → Bool
  | .fault g => g == f
  | _ => false

/-- The data the next state answered last. -/
def answers (w : Word) : Result → Bool := nextSat fun t => t.replies.head? == some w

theorem written_of_isSome {m : Memory} {a n : Nat} (h : ∀ i, i < n → (Sparse.read m (a + i)).isSome = true) :
    Written m a n := fun i hi => Option.isSome_iff_exists.1 (h i hi)

/-! ### Configurations: what wellFormed refuses (R5, R7) -/

theorem test_wf_accepts_smallest : (cfg 1 .shift).wellFormed = true := by decide
theorem test_wf_accepts_largest : (cfg (2 ^ 31) .rotate).wellFormed = true := by decide
theorem test_wf_refuses_size_zero : (cfg 0 .rotate).wellFormed = false := by decide
theorem test_wf_refuses_size_too_large : (cfg (2 ^ 31 + 1) .rotate).wellFormed = false := by decide
theorem test_wf_refuses_zero_pool_word0 : ({ cfg 64 .rotate with poolInit := ⟨0, 2, 3, 4⟩ } : Config).wellFormed = false := by decide
theorem test_wf_refuses_zero_pool_word1 : ({ cfg 64 .rotate with poolInit := ⟨1, 0, 3, 4⟩ } : Config).wellFormed = false := by decide
theorem test_wf_refuses_zero_pool_word2 : ({ cfg 64 .rotate with poolInit := ⟨1, 2, 0, 4⟩ } : Config).wellFormed = false := by decide
theorem test_wf_refuses_zero_pool_word3 : ({ cfg 64 .rotate with poolInit := ⟨1, 2, 3, 0⟩ } : Config).wellFormed = false := by decide
theorem test_wf_every_instruction : Instr.nop.wellFormed ∧ Instr.mask.wellFormed ∧ Instr.entSeed.wellFormed := by decide

/-! ### Decoding: each word written out from R53 (OP in bits 7:0, zeros above) and R55 -/

theorem test_decode_nop : decode 0b00000000000000000000000000000000#32 = .ok .nop := by decide
theorem test_decode_mask : decode 0b00000000000000000000000000000001#32 = .ok .mask := by decide
theorem test_decode_scramble : decode 0b00000000000000000000000000000010#32 = .ok .scramble := by decide
theorem test_decode_deobfuscate : decode 0b00000000000000000000000000000011#32 = .ok .deobfuscate := by decide
theorem test_decode_checksum : decode 0b00000000000000000000000000000100#32 = .ok .checksum := by decide
theorem test_decode_shuffle : decode 0b00000000000000000000000000000101#32 = .ok .shuffle := by decide
theorem test_decode_unshuffle : decode 0b00000000000000000000000000000110#32 = .ok .unshuffle := by decide
theorem test_decode_entDraw : decode 0b00000000000000000000000000000111#32 = .ok .entDraw := by decide
theorem test_decode_entFill : decode 0b00000000000000000000000000001000#32 = .ok .entFill := by decide
theorem test_decode_entSeed : decode 0b00000000000000000000000000001001#32 = .ok .entSeed := by decide

/-- R56, R66: the reserved OP values, and the reserved bits before OP (V9 to V12). -/
theorem test_decode_reserved :
    decode 0x0000000A#32 = .error (.reservedOp 0x0A) ∧ decode 0x000000FF#32 = .error (.reservedOp 0xFF) ∧
    decode 0x00000100#32 = .error .reservedBits ∧ decode 0x80000001#32 = .error .reservedBits := by decide

theorem test_table_word :
    decodeTableWord 32 0x00000006 = some .unshuffle ∧ decodeTableWord 8 0x09 = some .entSeed ∧
    decodeTableWord 32 0x00000106 = none := by decide

/-- The first step after reset runs the fetched word. -/
theorem test_fetch_word_is_run : step (State.reset.withFetchWord 32 0x01) = exec .mask (State.reset.accept 1).engineTurn := rfl

/-! ### Registers and flags (L2.1) -/

/-- V4. -/
theorem test_ctrl_reads_back_ie :
    nextSat (fun t => regRead t 0x008 == 1) ((buf 0 0 []).perform ⟨.reg, 0x008, .w32, .write 0xFFFFFFFF⟩) = true := by decide
/-- V5. -/
theorem test_result_ignores_writes : (buf 0 0 []).perform ⟨.reg, 0x020, .w32, .write 0x12345678⟩ = .next (buf 0 0 []) := by rfl
/-- V13. -/
theorem test_busy_reads_one : regRead ((buf 0 0 []).accept 5) 0x004 = 1 := by decide

/-- STATUS = 0x00000106, as V9 leaves it. -/
def afterIllegal : State := { buf 0 0 [] with done := true, err := true, errCode := .illegal }

theorem test_illegal_word_v9 : endsWith [] 0x106 (runWord 0x0000000A (buf 0 0 [])) = true := by decide
theorem test_illegal_word_v12 : endsWith [] 0x106 (runWord 0x80000001 (buf 0 0 [])) = true := by decide
theorem test_w1c_v14 : (afterIllegal.writeStatus 0x00000002).statusWord = 0x104 := by decide
theorem test_w1c_v15 : (afterIllegal.writeStatus 0x00000004).statusWord = 0x002 := by decide
theorem test_w1c_v17 : (afterIllegal.writeStatus 0xFFFFFF01).statusWord = 0x106 := by decide
/-- V22: acceptance lowers irq, completion raises it. -/
theorem test_irq_v22 :
    ({ afterIllegal with ie := true }.accept 0).irq = false ∧
    nextSat (fun t => t.irq) (runWord 0 { afterIllegal with ie := true }) = true := by decide

/-! ### The commands (L2.3 to L2.7) -/

/-- V18. -/
theorem test_nop_v18 :
    endsWith [] 0x002 (runWord 0 { buf 0 0 [] with done := true, err := true, errCode := .overlap }) = true := by decide

/-- M2: a key shorter than the buffer. -/
theorem test_mask_m2 :
    endsWith (bytesAt 0x100 [0x0F, 0xE1, 0x2D, 0xC3, 0x4B] ++ bytesAt 0x200 [0x0F, 0xF0]) 0x002
      (runWord 1 (bufKey 0x100 5 0x200 2
        (bytesAt 0x100 [0x00, 0x11, 0x22, 0x33, 0x44] ++ bytesAt 0x200 [0x0F, 0xF0]))) = true := by decide

/-- M12: the key lies in the buffer. -/
theorem test_mask_m12 :
    endsWith (bytesAt 0x100 [1, 2, 3, 4]) 0x306
      (runWord 1 (bufKey 0x100 4 0x102 1 (bytesAt 0x100 [1, 2, 3, 4]))) = true := by decide

/-- S1. -/
theorem test_scramble_s1_rotate :
    endsWith (bytesAt 0x100 [0xA5, 0xAD, 0xFF]) 0x002
      (runWord 2 (buf 0x100 3 (bytesAt 0x100 [0x00, 0x01, 0xFF]))) = true := by decide
theorem test_scramble_s1_shift :
    endsWith (bytesAt 0x100 [0xA5, 0xAD, 0xFA]) 0x002
      (runWord 2 { buf 0x100 3 (bytesAt 0x100 [0x00, 0x01, 0xFF]) with cfg := cfg 65536 .shift }) = true := by decide

/-- S4: not the inverse of S3. -/
theorem test_deobfuscate_s4 :
    endsWith (bytesAt 0x100 [0x48, 0x41, 0x48, 0x48, 0x4B]) 0x002
      (runWord 3 (buf 0x100 5 (bytesAt 0x100 [0xE7, 0xAF, 0xE7, 0xE7, 0xFF]))) = true := by decide
/-- S8. -/
theorem test_deobfuscate_s8 : endsWith [] 0x206 (runWord 3 (buf 0xFFFF 2 [])) = true := by decide

/-- K5: bytes are unsigned. -/
theorem test_checksum_k5 :
    nextSat (fun t => t.result == 1020) (runWord 4 (buf 0x100 4 (bytesAt 0x100 [0xFF, 0xFF, 0xFF, 0xFF]))) = true := by decide
/-- K9: RESULT is kept on RANGE. -/
theorem test_checksum_k9 :
    nextSat (fun t => t.result == 0x1234 && t.statusWord == 0x206) (runWord 4 { buf 0xFFFF 2 [] with result := 0x1234 }) = true := by
  decide

/-- P-11. -/
theorem test_shuffle_p11 :
    endsWith (bytesAt 0x100 [0x45, 0x4C, 0x4F, 0x48, 0x4C]) 0x002
      (runWord 5 { buf 0x100 5 (bytesAt 0x100 [0x48, 0x45, 0x4C, 0x4C, 0x4F]) with seed := 42 }) = true := by decide
/-- P-14, and LCG at P-2's advance. -/
theorem test_shuffle_p2_p14 :
    endsWith [] 0x206 (runWord 5 (buf 0xFFFF 2 [])) = true ∧
    nextSat (fun t => t.lcg == 1103527590 && t.seed == 1) (runWord 5 { buf 0x100 2 (bytesAt 0x100 [0xAA, 0xBB]) with seed := 1 }) = true := by
  decide

/-- P-8: a buffer that is no shuffle output. -/
theorem test_unshuffle_p8 :
    endsWith (bytesAt 0x100 [5, 1, 4, 3, 2]) 0x002 (runWord 6 (buf 0x100 5 (bytesAt 0x100 [1, 2, 3, 4, 5]))) = true := by decide
/-- P-7: TRACE as the table gives it. -/
theorem test_unshuffle_p7_trace :
    nextSat (fun t => t.trace == [(0, 2), (1, 1), (2, 0)])
      (runWord 6 { buf 0x100 3 (bytesAt 0x100 [30, 20, 10]) with seed := 7 }) = true := by decide

/-- N1, with a draw from a test source. -/
theorem test_entDraw_n1 :
    nextSat (fun t => t.result == 0x12345678 && t.weakIn == []) (runWord 7 { buf 0 0 [] with weakIn := [0x12345678] }) = true := by
  decide

/-- N3: one draw per byte, the low byte of each, in order. -/
theorem test_entFill_n3 :
    endsWith (bytesAt 0x100 [0xAA, 0x01, 0x00]) 0x002
      (runWord 8 { buf 0x100 3 [] with weakIn := [0x000000AA, 0x12345601, 0xFFFFFF00] }) = true := by decide
/-- N5: no draw is taken. -/
theorem test_entFill_n5 :
    nextSat (fun t => t.weakIn == [7] && t.statusWord == 0x206) (runWord 8 { buf 0xFFFF 2 [] with weakIn := [7] }) = true := by decide

/-- N7: pool_mix of the pool before, SEED and the jitter. -/
theorem test_entSeed_n7 :
    runWord 9 { buf 0 0 [] with seed := 0xDEADBEEF, jitterIn := [5] } =
      .next { buf 0 0 [] with
        seed := 0xDEADBEEF, curCmd := 9, done := true, jitterCount := 1, headStartCount := 1, pool := Config.poolMix ⟨1, 2, 3, 4⟩ 0xDEADBEEF 5 } := rfl

/-! ### The host's memory port and faults (L2.8) -/

/-- BMEM after B1's store of 0x11223344 at 0. -/
theorem test_store_b1 :
    endsWith (bytesAt 0 [0x44, 0x33, 0x22, 0x11]) 0 ((buf 0 0 []).perform ⟨.bmem, 0x000, .w32, .write 0x11223344⟩) = true := by decide
theorem test_load_b2 : answers 0x1122 ((buf 0 0 (bytesAt 0 [0x44, 0x33, 0x22, 0x11])).perform ⟨.bmem, 0x002, .w16, .read⟩) = true := by
  decide
theorem test_bus_error_b5 :
    faultsWith (.busError .bmem 0x001 .w16) ((buf 0 0 []).perform ⟨.bmem, 0x001, .w16, .read⟩) = true := by decide
theorem test_bus_error_b10 :
    faultsWith (.busError .reg 0x004 .w8) (step { (buf 0 0 []).accept 1 with headStarts := [1], pending := [⟨.reg, 0x004, .w8, .read⟩] }) = true := by
  decide
theorem test_unwritten_b13 :
    faultsWith (.unwrittenRead 0x101) ((buf 0 0 (bytesAt 0x100 [1])).perform ⟨.bmem, 0x100, .w16, .read⟩) = true := by decide
/-- P5b. -/
theorem test_unwritten_p5b : faultsWith (.unwrittenRead 0) (runWord 4 (buf 0 1 [])) = true := by decide

/-- R60, R61. -/
theorem test_assemble_run :
    assemble [.run "obfuscate"] =
      .ok [.access ⟨.reg, 0x000, .w32, .write 2⟩ none, .label 1, .access ⟨.reg, 0x004, .w32, .read⟩ (some 9), .branch true 9 1 1] := by
  decide

/-! ### Witnesses: for each obligation with hypotheses, data that meet them all together, clause by clause -/

/-- A written buffer of three bytes. -/
def three : State := buf 0x100 3 (bytesAt 0x100 [1, 2, 3])

/-- The same with a key of two bytes. -/
def threeKey : State := bufKey 0x100 3 0x200 2 (bytesAt 0x100 [1, 2, 3] ++ bytesAt 0x200 [0x0F, 0xF0])

/-- A written buffer that ends at the end of BMEM. -/
def lastTwo : State := buf 0xFFFE 2 (bytesAt 0xFFFC [9, 8, 7, 6])

theorem three_written : Written three.bmem three.bufA three.bufN := written_of_isSome (by decide)
theorem lastTwo_written : Written lastTwo.bmem lastTwo.bufA lastTwo.bufN := written_of_isSome (by decide)

/-- A STATUS read and a BMEM read. -/
def statusRead : Access := ⟨.reg, 0x004, .w32, .read⟩
def byteRead : Access := ⟨.bmem, 0x100, .w8, .read⟩

theorem witness_ReleaseWhileIdleResetsEverything : ∃ s : State, s.rst = true ∧ s.busy = false :=
  ⟨three.assertReset, by decide⟩

/-- The clauses of ReleaseWhileBusyAbortsCommand: a command with an output region, at its first byte, its last and past it; one without. -/
theorem witness_ReleaseWhileBusyAbortsCommand :
    (∃ s : State, s.rst = true ∧ s.busy = true ∧
      (∃ i ∈ [Instr.mask, .scramble, .deobfuscate, .shuffle, .unshuffle, .entFill], s.curCmd = encode i) ∧
      InRegion s.bufA s.bufN 0x100 ∧ InRegion s.bufA s.bufN 0x102 ∧ ¬ InRegion s.bufA s.bufN 0x103) ∧
    (∃ s : State, s.rst = true ∧ s.busy = true ∧
      ∀ i ∈ [Instr.mask, .scramble, .deobfuscate, .shuffle, .unshuffle, .entFill], s.curCmd ≠ encode i) :=
  ⟨⟨(three.accept 2).assertReset, rfl, rfl, by decide, by unfold InRegion; decide, by unfold InRegion; decide, by unfold InRegion; decide⟩,
    ⟨(three.accept 4).assertReset, rfl, rfl, by decide⟩⟩

theorem witness_RegisterReadReturnsMapValue :
    (∃ off : Nat, off % 4 = 0 ∧ off ≤ 0xFFC ∧ off = 0x000) ∧ (∃ off : Nat, off % 4 = 0 ∧ off ≤ 0xFFC ∧ off = 0x024) ∧
    (∃ off : Nat, off % 4 = 0 ∧ off ≤ 0xFFC ∧ off = 0xFFC) :=
  ⟨⟨0x000, by decide⟩, ⟨0x024, by decide⟩, ⟨0xFFC, by decide⟩⟩

theorem witness_StatusWriteClearsSelectedFlags : (∃ s : State, s.busy = false) ∧ (∃ s : State, s.busy = true) :=
  ⟨⟨three, rfl⟩, ⟨three.accept 0, rfl⟩⟩

theorem witness_ReservedOffsetsReadZeroIgnoreWrites :
    (0x028 % 4 = 0 ∧ 0x028 ≤ 0x028 ∧ 0x028 ≤ 0xFFC) ∧ (0xFFC % 4 = 0 ∧ 0x028 ≤ 0xFFC ∧ 0xFFC ≤ 0xFFC) := by decide

theorem witness_CmdWriteIsAcceptance : (∃ s : State, s.busy = false) ∧ (∃ s : State, s.busy = true) :=
  ⟨⟨three, rfl⟩, ⟨three.accept 1, rfl⟩⟩

theorem witness_HeldAccessWaitsForCompletion :
    ∃ (s : State) (a : Access) (rest : List Access) (t : State),
      s.rst = false ∧ s.busy = true ∧ s.pending = a :: rest ∧ a.legal s.cfg = true ∧
      ¬ (a.space = .reg ∧ a.addr = 0x004 ∧ a.kind = .read) ∧ step s = .next t :=
  ⟨(three.accept 0).issue byteRead, byteRead, [], _, rfl, rfl, rfl, by decide, by decide, rfl⟩

theorem witness_StatusReadIsNotHeld :
    ∃ (s : State) (rest : List Access),
      s.rst = false ∧ s.busy = true ∧ s.pending = ⟨.reg, 0x004, .w32, .read⟩ :: rest ∧ s.nextAgent = .host :=
  ⟨{ (three.accept 0).issue statusRead with headStarts := [1] }, [], rfl, rfl, rfl, rfl⟩

theorem witness_OldestAccessIsPerformed :
    ∃ (s : State) (a : Access) (rest : List Access), s.rst = false ∧ s.busy = false ∧ s.pending = a :: rest :=
  ⟨(three.issue byteRead).issue statusRead, byteRead, [statusRead], rfl, rfl, rfl⟩

/-- The step's clause: idle, and with a command running and the host moving first. -/
theorem witness_BusErrorExactlyForIllegalAccess :
    (∃ (s : State) (a : Access) (rest : List Access),
      s.rst = false ∧ s.pending = a :: rest ∧ a.legal s.cfg = false ∧ s.busy = false) ∧
    (∃ (s : State) (a : Access) (rest : List Access),
      s.rst = false ∧ s.pending = a :: rest ∧ a.legal s.cfg = false ∧ s.busy = true ∧ s.nextAgent = .host) :=
  ⟨⟨three.issue ⟨.bmem, 0x10000, .w8, .read⟩, _, [], rfl, rfl, by decide, rfl⟩,
    ⟨{ (three.accept 2).issue ⟨.reg, 0x004, .w8, .read⟩ with headStarts := [1] }, _, [], rfl, rfl, by decide, rfl, by decide⟩⟩

/-- Each width at the last address it may have. -/
theorem witness_HostMemoryReadIsLittleEndian :
    (∃ (s : State) (a : Nat) (b0 : Byte), Sparse.read s.bmem a = some b0 ∧ a + 1 ≤ s.cfg.bmemSize ∧ a = 0xFFFF) ∧
    (∃ (s : State) (a : Nat) (b0 b1 : Byte), Sparse.read s.bmem a = some b0 ∧ Sparse.read s.bmem (a + 1) = some b1 ∧
      a % 2 = 0 ∧ a + 2 ≤ s.cfg.bmemSize ∧ a = 0xFFFE) ∧
    (∃ (s : State) (a : Nat) (b0 b1 b2 b3 : Byte), Sparse.read s.bmem a = some b0 ∧ Sparse.read s.bmem (a + 1) = some b1 ∧
      Sparse.read s.bmem (a + 2) = some b2 ∧ Sparse.read s.bmem (a + 3) = some b3 ∧ a % 4 = 0 ∧ a + 4 ≤ s.cfg.bmemSize ∧ a = 0xFFFC) :=
  ⟨⟨lastTwo, 0xFFFF, 6, by decide⟩, ⟨lastTwo, 0xFFFE, 7, 6, by decide⟩, ⟨lastTwo, 0xFFFC, 9, 8, 7, 6, by decide⟩⟩

theorem witness_HostMemoryWriteStoresItsBytes :
    (∃ (s : State) (a : Nat), a % Width.w8.bytes = 0 ∧ a + Width.w8.bytes ≤ s.cfg.bmemSize) ∧
    (∃ (s : State) (a : Nat), a % Width.w16.bytes = 0 ∧ a + Width.w16.bytes ≤ s.cfg.bmemSize) ∧
    (∃ (s : State) (a : Nat), a % Width.w32.bytes = 0 ∧ a + Width.w32.bytes ≤ s.cfg.bmemSize) :=
  ⟨⟨three, 0xFFFF, by decide⟩, ⟨three, 0xFFFE, by decide⟩, ⟨three, 0xFFFC, by decide⟩⟩

/-- The unwritten byte first, and last. -/
theorem witness_HostReadOfUnwrittenByteFaults :
    (∃ (s : State) (a : Nat), a % Width.w16.bytes = 0 ∧ a + Width.w16.bytes ≤ s.cfg.bmemSize ∧ 0 < Width.w16.bytes ∧
      Written s.bmem a 0 ∧ Sparse.read s.bmem (a + 0) = none) ∧
    (∃ (s : State) (a : Nat), a % Width.w32.bytes = 0 ∧ a + Width.w32.bytes ≤ s.cfg.bmemSize ∧ 3 < Width.w32.bytes ∧
      Written s.bmem a 3 ∧ Sparse.read s.bmem (a + 3) = none) :=
  ⟨⟨three, 0x104, by decide, by decide, by decide, written_of_isSome (by decide), by decide⟩,
    ⟨three, 0x100, by decide, by decide, by decide, written_of_isSome (by decide), by decide⟩⟩

theorem witness_IdleBlockKeepsItsState : ∃ s : State, s.rst = false ∧ s.busy = false ∧ s.pending = [] :=
  ⟨three, rfl, rfl, rfl⟩

/-- The three clauses of StepRunsDecodedCommand. -/
theorem witness_StepRunsDecodedCommand :
    (∃ (s : State) (i : Instr), s.rst = false ∧ s.busy = true ∧ decode s.curCmd = .ok i ∧ s.pending = []) ∧
    (∃ (s : State) (i : Instr), s.rst = false ∧ s.busy = true ∧ decode s.curCmd = .ok i ∧
      ∃ a rest, s.pending = a :: rest ∧ a.held s = true) ∧
    (∃ (s : State) (i : Instr), s.rst = false ∧ s.busy = true ∧ decode s.curCmd = .ok i ∧
      s.nextAgent = .engine ∧ ∃ a rest, s.pending = a :: rest ∧ a.held s = false) :=
  ⟨⟨three.accept 2, .scramble, by decide⟩,
    ⟨(three.accept 2).issue byteRead, .scramble, rfl, rfl, by decide, byteRead, [], rfl, by decide⟩,
    ⟨{ (three.accept 2).issue statusRead with headStarts := [0] }, .scramble, rfl, rfl, by decide, by decide, statusRead, [], rfl, by decide⟩⟩

theorem witness_IllegalWordEndsWithIllegal :
    (∃ s : State, s.curCmd.extractLsb' 8 24 ≠ 0) ∧ (∃ s : State, 0x0A ≤ (s.curCmd.extractLsb' 0 8).toNat) :=
  ⟨⟨three.accept 0x00000100, by decide⟩, ⟨three.accept 0x0000000A, by decide⟩⟩

/-- A success and an error. -/
theorem witness_EveryCommandEndsInCompletion :
    (∃ s t : State, Running s ∧ engineStep s = .next t ∧ t.err = false) ∧
    (∃ s t : State, Running s ∧ engineStep s = .next t ∧ t.err = true) :=
  ⟨⟨three.accept 2, _, ⟨rfl, rfl, rfl, rfl⟩, rfl, rfl⟩, ⟨(buf 0xFFFF 2 []).accept 2, _, ⟨rfl, rfl, rfl, rfl⟩, rfl, rfl⟩⟩

/-- Each of the three errors. -/
theorem witness_CommandErrorChangesOnlyStatus :
    (∃ s t : State, Running s ∧ engineStep s = .next t ∧ t.err = true ∧ t.errCode = .illegal) ∧
    (∃ s t : State, Running s ∧ engineStep s = .next t ∧ t.err = true ∧ t.errCode = .range) ∧
    (∃ s t : State, Running s ∧ engineStep s = .next t ∧ t.err = true ∧ t.errCode = .overlap) :=
  ⟨⟨three.accept 0x0A, _, ⟨rfl, rfl, rfl, rfl⟩, rfl, rfl, rfl⟩,
    ⟨(buf 0xFFFF 2 []).accept 5, _, ⟨rfl, rfl, rfl, rfl⟩, rfl, rfl, rfl⟩,
    ⟨(bufKey 0x100 4 0x102 1 []).accept 1, _, ⟨rfl, rfl, rfl, rfl⟩, rfl, rfl, rfl⟩⟩

/-- A byte of the buffer, and a byte of the key. -/
theorem witness_CommandFaultsOnlyOnUnwrittenBytes :
    (∃ s : State, exec .checksum s = .fault (.unwrittenRead 0x102)) ∧
    (∃ s : State, exec .mask s = .fault (.unwrittenRead 0x200)) :=
  ⟨⟨buf 0x100 3 (bytesAt 0x100 [1, 2]), rfl⟩, ⟨bufKey 0x100 2 0x200 1 (bytesAt 0x100 [1, 2]), rfl⟩⟩

theorem witness_CommandsWriteOnlyTheirOwnState :
    ∀ i ∈ [Instr.nop, .mask, .scramble, .deobfuscate, .checksum, .shuffle, .unshuffle, .entDraw, .entFill, .entSeed],
      ∃ t, exec i threeKey = .next t := by
  simp only [List.forall_mem_cons, List.not_mem_nil, false_imp_iff, implies_true, and_true]
  exact ⟨⟨_, rfl⟩, ⟨_, rfl⟩, ⟨_, rfl⟩, ⟨_, rfl⟩, ⟨_, rfl⟩, ⟨_, rfl⟩, ⟨_, rfl⟩, ⟨_, rfl⟩, ⟨_, rfl⟩, ⟨_, rfl⟩⟩

/-- The first and the last byte of the region change. -/
theorem witness_StoresStayInTheBufferRegion :
    ∃ s t : State, exec .scramble s = .next t ∧
      Sparse.read t.bmem 0x100 ≠ Sparse.read s.bmem 0x100 ∧ Sparse.read t.bmem 0x102 ≠ Sparse.read s.bmem 0x102 :=
  ⟨three, _, rfl, by decide, by decide⟩

theorem witness_NopOnlyCompletes :
    (∃ w : Word, w.extractLsb' 0 8 = 0 ∧ w.extractLsb' 8 24 ≠ 0) ∧ ∃ s : State, s.busy = false :=
  ⟨⟨0x100, by decide⟩, ⟨afterIllegal, rfl⟩⟩

/-- A key shorter than the buffer, and the premises of the clause on byte i at the last byte. -/
theorem witness_MaskXorsBufferWithCyclicKey :
    ∃ s : State, s.keyN ≠ 0 ∧ s.bufN ≠ 0 ∧ s.bufInRange = true ∧ s.keyInRange = true ∧ s.regionsOverlap = false ∧
      Written s.bmem s.bufA s.bufN ∧ Written s.bmem s.keyA (min s.keyN s.bufN) ∧
      ∃ i b k, i < s.bufN ∧ Sparse.read s.bmem (s.bufA + i) = some b ∧ Sparse.read s.bmem (s.keyA + i % s.keyN) = some k :=
  ⟨threeKey, by decide, by decide, by decide, by decide, by decide, written_of_isSome (by decide), written_of_isSome (by decide),
    2, 3, 0x0F, by decide⟩

/-- The no-ops of M7 and M8, RANGE on the buffer and on the key (M9, M10), OVERLAP (M12). -/
theorem witness_MaskEndsEarlyInTheStatedOrder :
    (∃ s : State, s.keyN = 0) ∧ (∃ s : State, s.keyN ≠ 0 ∧ s.bufN = 0) ∧
    (∃ s : State, s.keyN ≠ 0 ∧ s.bufN ≠ 0 ∧ s.cfg.bmemSize < s.bufA + s.bufN) ∧
    (∃ s : State, s.keyN ≠ 0 ∧ s.bufN ≠ 0 ∧ s.bufA + s.bufN ≤ s.cfg.bmemSize ∧ s.cfg.bmemSize < s.keyA + s.keyN) ∧
    (∃ s : State, s.keyN ≠ 0 ∧ s.bufN ≠ 0 ∧ s.bufA + s.bufN ≤ s.cfg.bmemSize ∧ s.keyA + s.keyN ≤ s.cfg.bmemSize ∧
      ∃ x, InRegion s.bufA s.bufN x ∧ InRegion s.keyA s.keyN x) :=
  ⟨⟨bufKey 0xFFFFFFF0 3 0x200 0 [], by decide⟩, ⟨bufKey 0x100 0 0xFFFFFFF0 5 [], by decide⟩,
    ⟨bufKey 0xFFFF 2 0x200 1 [], by decide⟩, ⟨bufKey 0x100 2 0xFFFF 2 [], by decide⟩,
    ⟨bufKey 0x100 4 0x103 1 [], by decide, by decide, by decide, by decide, 0x103, by unfold InRegion; decide⟩⟩

theorem witness_MaskIsAnInvolution :
    ∃ s t s2 : State, Running s ∧ exec .mask s = .next t ∧ t.err = false ∧ Running s2 ∧
      s2.cfg = t.cfg ∧ s2.bufAddr = t.bufAddr ∧ s2.bufLen = t.bufLen ∧ s2.keyAddr = t.keyAddr ∧ s2.keyLen = t.keyLen ∧
      (∀ x, (InRegion s.bufA s.bufN x ∨ InRegion s.keyA s.keyN x) → Sparse.read s2.bmem x = Sparse.read t.bmem x) := by
  obtain ⟨t, ht, he⟩ : ∃ t, exec .mask (threeKey.accept 1) = .next t ∧ t.err = false := ⟨_, rfl, rfl⟩
  exact ⟨threeKey.accept 1, t, t.accept 1, ⟨rfl, rfl, rfl, rfl⟩, ht, he, ⟨rfl, rfl, rfl, rfl⟩, rfl, rfl, rfl, rfl, rfl, fun _ _ => rfl⟩

/-- For SCRAMBLE, DEOBFUSCATE and CHECKSUM: a buffer that ends at the end of BMEM. -/
theorem witness_ScrambleReplacesBufferBytes :
    ∃ s : State, s.bufN ≠ 0 ∧ s.bufInRange = true ∧ Written s.bmem s.bufA s.bufN ∧
      ∃ i b, i < s.bufN ∧ Sparse.read s.bmem (s.bufA + i) = some b :=
  ⟨lastTwo, by decide, by decide, lastTwo_written, 1, 6, by decide⟩

theorem witness_DeobfuscateReplacesBufferBytes :
    ∃ s : State, s.bufN ≠ 0 ∧ s.bufInRange = true ∧ Written s.bmem s.bufA s.bufN ∧
      ∃ i b, i < s.bufN ∧ Sparse.read s.bmem (s.bufA + i) = some b :=
  witness_ScrambleReplacesBufferBytes

theorem witness_ScramblerEndsEarly :
    (∃ s : State, s.bufN = 0) ∧ (∃ s : State, s.bufN ≠ 0 ∧ s.cfg.bmemSize < s.bufA + s.bufN) :=
  ⟨⟨buf 0xFFFFFFFF 0 [], by decide⟩, ⟨buf 0xFFFF 2 [], by decide⟩⟩

theorem witness_ChecksumSumsBufferBytes :
    ∃ s : State, s.bufN ≠ 0 ∧ s.bufInRange = true ∧ Written s.bmem s.bufA s.bufN :=
  ⟨lastTwo, by decide, by decide, lastTwo_written⟩

theorem witness_ChecksumEndsEarly :
    (∃ s : State, s.bufN = 0) ∧ (∃ s : State, s.bufN ≠ 0 ∧ s.cfg.bmemSize < s.bufA + s.bufN) :=
  witness_ScramblerEndsEarly

/-- The first byte unwritten, and the last; for MASK a buffer byte, and the last used key byte; for SHUFFLE a byte of the last pair. -/
theorem witness_UnwrittenBufferByteFaults :
    (∃ s : State, 2 ≤ s.bufN ∧ s.bufInRange = true ∧ 0 < s.bufN ∧ Written s.bmem s.bufA 0 ∧ Sparse.read s.bmem (s.bufA + 0) = none) ∧
    (∃ s : State, 2 ≤ s.bufN ∧ s.bufInRange = true ∧ 2 < s.bufN ∧ Written s.bmem s.bufA 2 ∧ Sparse.read s.bmem (s.bufA + 2) = none) ∧
    (∃ s : State, s.keyN ≠ 0 ∧ s.bufN ≠ 0 ∧ s.bufInRange = true ∧ s.keyInRange = true ∧ s.regionsOverlap = false ∧
      ∃ k, k < s.bufN ∧ Sparse.read s.bmem (s.bufA + k) = none) ∧
    (∃ s : State, s.keyN ≠ 0 ∧ s.bufN ≠ 0 ∧ s.bufInRange = true ∧ s.keyInRange = true ∧ s.regionsOverlap = false ∧
      ∃ k, k < min s.keyN s.bufN ∧ Sparse.read s.bmem (s.keyA + k) = none) ∧
    (∃ s : State, 2 ≤ s.bufN ∧ s.bufInRange = true ∧
      ∃ p ∈ swapSeq s.bufN s.seed, Sparse.read s.bmem (s.bufA + p.1) = none ∨ Sparse.read s.bmem (s.bufA + p.2) = none) :=
  ⟨⟨buf 0x100 3 [], by decide, by decide, by decide, written_of_isSome (by decide), by decide⟩,
    ⟨buf 0x100 3 (bytesAt 0x100 [1, 2]), by decide, by decide, by decide, written_of_isSome (by decide), by decide⟩,
    ⟨bufKey 0x100 3 0x200 2 (bytesAt 0x100 [1, 2] ++ bytesAt 0x200 [7, 8]), by decide, by decide, by decide, by decide, by decide, 2, by decide⟩,
    ⟨bufKey 0x100 3 0x200 2 (bytesAt 0x100 [1, 2, 3] ++ bytesAt 0x200 [7]), by decide, by decide, by decide, by decide, by decide, 1, by decide⟩,
    ⟨buf 0x100 2 (bytesAt 0x100 [1]), by decide, by decide, (1, 1), by decide, by decide⟩⟩

/-- The three clauses: two regions with permuted bytes, one region before a shuffle, the two colliding buffers. -/
theorem witness_ChecksumIgnoresByteOrder :
    (∃ s t u v : State, s.bufN = t.bufN ∧ s.bufInRange = true ∧ t.bufInRange = true ∧
      (regionBytes s.bmem s.bufA s.bufN).Perm (regionBytes t.bmem t.bufA t.bufN) ∧
      exec .checksum s = .next u ∧ exec .checksum t = .next v) ∧
    (∃ s : State, s.bufInRange = true ∧ Written s.bmem s.bufA s.bufN) ∧
    (∃ s : State, s.bufN = 2 ∧ s.bufInRange = true ∧ Written s.bmem s.bufA 2 ∧ regionBytes s.bmem s.bufA 2 = [0x01, 0x01]) ∧
    (∃ s : State, s.bufN = 2 ∧ s.bufInRange = true ∧ Written s.bmem s.bufA 2 ∧ regionBytes s.bmem s.bufA 2 = [0x02, 0x00]) :=
  ⟨⟨three, buf 0x200 3 (bytesAt 0x200 [3, 1, 2]), _, _, by decide, by decide, by decide, by decide, rfl, rfl⟩,
    ⟨three, by decide, three_written⟩,
    ⟨buf 0x100 2 (bytesAt 0x100 [1, 1]), by decide, by decide, written_of_isSome (by decide), by decide⟩,
    ⟨buf 0x100 2 (bytesAt 0x100 [2, 0]), by decide, by decide, written_of_isSome (by decide), by decide⟩⟩

theorem witness_SwapSequenceFollowsTheLcg : ∃ n k : Nat, 2 ≤ n ∧ k < n - 1 := ⟨2, 0, by decide⟩

theorem witness_ShuffleAppliesTheSwapSequence :
    ∃ s : State, 2 ≤ s.bufN ∧ s.bufInRange = true ∧ Written s.bmem s.bufA s.bufN :=
  ⟨lastTwo, by decide, by decide, lastTwo_written⟩

theorem witness_UnshuffleScattersThroughTheTrace :
    ∃ s : State, 2 ≤ s.bufN ∧ s.bufInRange = true ∧ Written s.bmem s.bufA s.bufN ∧ ∃ i, i < s.bufN :=
  ⟨lastTwo, by decide, by decide, lastTwo_written, 1, by decide⟩

theorem witness_PermutationEndsEarly :
    (∃ s : State, s.bufN < 2 ∧ s.bufN = 1) ∧ (∃ s : State, 2 ≤ s.bufN ∧ s.cfg.bmemSize < s.bufA + s.bufN) :=
  ⟨⟨buf 0xFFFFFFFF 1 [], by decide⟩, ⟨buf 0xFFFF 2 [], by decide⟩⟩

/-- Both orders. -/
theorem witness_ShuffleAndUnshuffleAreInverse :
    ∀ i ∈ [Instr.shuffle, .unshuffle],
      ∃ s t s2 : State, 2 ≤ s.bufN ∧ s.bufInRange = true ∧ Written s.bmem s.bufA s.bufN ∧ exec i s = .next t ∧
        s2.cfg = t.cfg ∧ s2.bufAddr = t.bufAddr ∧ s2.bufLen = t.bufLen ∧ s2.seed = t.seed ∧
        (∀ x, InRegion s.bufA s.bufN x → Sparse.read s2.bmem x = Sparse.read t.bmem x) := by
  intro i hi
  obtain ⟨t, ht⟩ : ∃ t, exec i three = .next t := by
    simp only [List.mem_cons, List.not_mem_nil, or_false] at hi
    rcases hi with rfl | rfl <;> exact ⟨_, rfl⟩
  exact ⟨three, t, t, by decide, by decide, three_written, ht, rfl, rfl, rfl, rfl, fun _ _ => rfl⟩

theorem witness_SeedsDifferingInBit31AreEquivalent :
    (∃ s t : State, exec .shuffle s = .next t) ∧ (∃ s t : State, exec .unshuffle s = .next t) :=
  ⟨⟨three, _, rfl⟩, ⟨three, _, rfl⟩⟩

theorem witness_EntDrawWritesTheDraw : ∃ (s : State) (w : Word) (ws : List Word), s.weakIn = w :: ws :=
  ⟨{ three with weakIn := [7] }, 7, [], rfl⟩

/-- The old contents of the region may be unwritten (N6). -/
theorem witness_EntFillWritesLowBytesOfDraws :
    (∃ s : State, s.bufN ≠ 0 ∧ s.bufInRange = true ∧ Sparse.read s.bmem s.bufA = none) ∧
    (∃ (s : State) (w : Word), s.weakIn[2]? = some w) ∧ (∃ s : State, s.weakIn.length ≤ 2) :=
  ⟨⟨buf 0x300 1 [], by decide⟩, ⟨{ three with weakIn := [5, 6, 7] }, 7, rfl⟩, ⟨{ three with weakIn := [5, 6] }, by decide⟩⟩

theorem witness_EntFillEndsEarly :
    (∃ s : State, s.bufN = 0) ∧ (∃ s : State, s.bufN ≠ 0 ∧ s.cfg.bmemSize < s.bufA + s.bufN) :=
  witness_ScramblerEndsEarly

theorem witness_EntSeedMixesThePool : ∃ (s : State) (j : Word) (js : List Word), s.jitterIn = j :: js :=
  ⟨{ three with jitterIn := [5] }, 5, [], rfl⟩

theorem witness_ResetSatisfiesInvariant : ∃ c : Config, c.wellFormed = true := ⟨cfg 1 .shift, by decide⟩

/-- A state in mid-command that satisfies the invariant, and its step. -/
theorem witness_StepKeepsInvariant : ∃ s t : State, BlockInv s ∧ step s = .next t :=
  ⟨three.accept 6, _,
    ⟨by decide, by decide, by decide, fun _ => ⟨rfl, rfl, rfl⟩, by decide, by decide, by decide, by decide, by decide, by decide⟩, rfl⟩

/-- A host program that loops without an access while a command runs. -/
def loopForever : System := ⟨HostAgent.start [.label 1, .branch false 0 1 1], { three.accept 6 with headStarts := [3] }⟩

theorem witness_RunningCommandCompletes :
    (∃ s : State, s.rst = false ∧ s.busy = true ∧ s.pending ≠ []) ∧ ∃ y : System, y.block.rst = false ∧ y.block.busy = true :=
  ⟨⟨(three.accept 6).issue statusRead, rfl, rfl, by decide⟩, ⟨loopForever, rfl, rfl⟩⟩

/-- R117: the loop does not starve the engine: it moves once the host's three moves are made. -/
theorem test_host_loop_completes :
    (match runSystem 3 loopForever with | .next y => y.block.busy | _ => false) = true ∧
    (match runSystem 4 loopForever with | .next y => y.block.done | _ => false) = true := by decide

/-- Clause by clause: names outside the lists and within them, and values at 2^32. -/
theorem witness_AssemblerRefusesWhatItMust :
    "SAVE" ∉ specMnemonics.map Prod.fst ∧ ("SHUFFLE", 0x05) ∈ specMnemonics ∧
    "POOL" ∉ specRegisters.map Prod.fst ∧ ("SEED", 0x01C) ∈ specRegisters ∧ "ID" ∈ specRegisters.map Prod.fst ∧
    ([1, 2 ^ 32][1]? = some (2 ^ 32) ∧ 2 ^ 32 ≤ 2 ^ 32) ∧
    (0x101 < 2 ^ 32 ∧ 0xFFFF < 2 ^ 32 ∧ 0x101 % 2 ≠ 0) ∧ (0x102 < 2 ^ 32 ∧ 0xFFFFFFFF < 2 ^ 32 ∧ 0x102 % 4 ≠ 0) ∧
    (0xFFFC < 2 ^ 32 ∧ 0xFFFC % Width.w32.bytes = 0) ∧ 0xFFFFFFFF < 2 ^ 32 := by decide

/-- The clause on bytes that fit: the last address a word holds. -/
theorem witness_AssemblerTakesBytes :
    ∃ (a : Nat) (bs : List Nat), bs.length = 2 ∧ ∀ k b, bs[k]? = some b → a + k < 2 ^ 32 ∧ b < 2 ^ 32 :=
  ⟨0xFFFFFFFE, [1, 2], rfl, fun k b h => by
    match k, h with
    | 0, h => cases h; decide
    | 1, h => cases h; decide⟩

/-- The program-level clauses: a statement that is refused whatever its label, and a program of statements that are taken. -/
theorem witness_AssemblerRefusesPrograms :
    (∃ (ps : List Source) (p : Source), p ∈ ps ∧ ∀ l, ∃ e, Source.lines l p = .error e) ∧
    (∃ ps : List Source, ps.length = 2 ∧ ∀ p ∈ ps, ∀ l, ∃ ls, Source.lines l p = .ok ls) :=
  ⟨⟨[.clr, .cmd "SAVE"], .cmd "SAVE", by decide, fun _ => ⟨.unknownMnemonic, show Source.cmdLine "SAVE" = _ by decide⟩⟩,
    ⟨[.label 1, .wait], rfl, by simp [Source.lines]⟩⟩

end Sys2Proof.Machine.Tests
end

section
/-! The register port: what a legal access to a named register and to a reserved offset does, and the statements of 10_state.md on STATUS, CTRL, the reserved offsets and irq. -/

namespace Sys2Proof.Machine

/-! ### Legal accesses to the register port -/

/-- R39: the offset alone decides whether a 32-bit register access is legal. -/
theorem Access.legal_reg_w32 (c : Config) {off : Nat} (k : AccessKind) (h4 : off % 4 = 0) (hle : off ≤ 0xFFC) :
    Access.legal c ⟨.reg, off, .w32, k⟩ = true := by
  simp [Access.legal, h4, hle]

theorem perform_read_reg (s : State) {off : Nat} (h4 : off % 4 = 0) (hle : off ≤ 0xFFC) :
    s.perform ⟨.reg, off, .w32, .read⟩ = .next (s.answer (regRead s off)) := by
  simp [State.perform, Access.legal_reg_w32 _ _ h4 hle, State.performReg]

theorem perform_write_reg (s : State) {off : Nat} (w : Word) (h4 : off % 4 = 0) (hle : off ≤ 0xFFC) :
    s.perform ⟨.reg, off, .w32, .write w⟩ = .next (regWrite s off w) := by
  simp [State.perform, Access.legal_reg_w32 _ _ h4 hle, State.performReg]

/-! ### The named registers -/

@[simp] theorem regAt_offset (r : Reg) : regAt r.offset = some r := by cases r <;> rfl

theorem Reg.offset_mod_four (r : Reg) : r.offset % 4 = 0 := by cases r <;> rfl

theorem Reg.offset_le_id (r : Reg) : r.offset ≤ 0x024 := by cases r <;> decide

@[simp] theorem regRead_offset (s : State) (r : Reg) : regRead s r.offset = s.readReg r := by simp [regRead]

@[simp] theorem regWrite_offset (s : State) (r : Reg) (w : Word) : regWrite s r.offset w = s.writeReg r w := by
  simp [regWrite]

/-- A host write to a named register has that register's write effect and no other. -/
theorem perform_write_offset (s : State) (r : Reg) (w : Word) :
    s.perform ⟨.reg, r.offset, .w32, .write w⟩ = .next (s.writeReg r w) := by
  rw [perform_write_reg s w r.offset_mod_four (r.offset_le_id.trans (by decide)), regWrite_offset]

/-! ### The reserved offsets -/

/-- A register that the map finds stands at its own offset, so the map holds nothing beside the named registers. -/
theorem offset_of_regAt {off : Nat} {r : Reg} (h : regAt off = some r) : r.offset = off := by
  unfold regAt at h
  split at h <;> cases h <;> rfl

/-- R24: ID, at 0x024, is the last named register. -/
theorem regAt_of_reserved {off : Nat} (h : 0x028 ≤ off) : regAt off = none := by
  cases hr : regAt off with
  | none => rfl
  | some r =>
    have hoff := offset_of_regAt hr
    have hlast := r.offset_le_id
    omega

theorem regRead_of_reserved (s : State) {off : Nat} (h : 0x028 ≤ off) : regRead s off = 0 := by
  simp [regRead, regAt_of_reserved h]

theorem regWrite_of_reserved (s : State) {off : Nat} (w : Word) (h : 0x028 ≤ off) : regWrite s off w = s := by
  simp [regWrite, regAt_of_reserved h]

/-! ### STATUS and CTRL -/

/-- R20, write 1 to clear: a flag stays exactly when its bit of w is 0. -/
theorem writeStatus_eq (s : State) (w : Word) :
    s.writeStatus w = { s with
      done := s.done && !w.getLsbD 1
      err := s.err && !w.getLsbD 2
      errCode := if w.getLsbD 2 = true then .none else s.errCode } := by
  unfold State.writeStatus
  cases w.getLsbD 1 <;> cases w.getLsbD 2 <;> simp

/-- R47: while a command runs, a legal register write waits, whatever its offset: only a read can be a STATUS read. -/
theorem held_write_reg {s : State} {off : Nat} (w : Word) (hb : s.busy = true) (h4 : off % 4 = 0) (hle : off ≤ 0xFFC) :
    Access.held s ⟨.reg, off, .w32, .write w⟩ = true :=
  Access.held_eq_true.2 ⟨hb, Access.legal_reg_w32 _ _ h4 hle, by simp [Access.isStatusRead]⟩

theorem ctrlWord_toNat (s : State) : s.ctrlWord.toNat = s.ie.toNat := by
  cases h : s.ie <;> simp [State.ctrlWord, h]

/-! ### The statements -/

/-- Settles O6: STATUS's write effect at its offset, and the hold of every legal write while BUSY = 1. -/
theorem statusWriteClearsSelectedFlags : Obligations.StatusWriteClearsSelectedFlags := by
  intro s w
  constructor
  · intro _
    have hw : s.perform ⟨.reg, 0x004, .w32, .write w⟩ = .next (s.writeStatus w) := perform_write_offset s .status w
    rw [hw, writeStatus_eq]
  · intro hb
    exact held_write_reg w hb (by decide) (by decide)

/-- Settles O7: the reset value, the read value and the write effect of CTRL. -/
theorem ctrlKeepsOnlyInterruptEnable : Obligations.CtrlKeepsOnlyInterruptEnable := by
  refine ⟨rfl, fun s => ?_, fun s w => perform_write_offset s .ctrl w⟩
  have hr : regRead s 0x008 = s.ctrlWord := regRead_offset s .ctrl
  rw [hr, ctrlWord_toNat]

/-- Settles O9: the access is legal (R39), and no register stands past ID. -/
theorem reservedOffsetsReadZeroIgnoreWrites : Obligations.ReservedOffsetsReadZeroIgnoreWrites := by
  intro s off h4 hlo hhi
  constructor
  · rw [perform_read_reg s h4 hhi, regRead_of_reserved s hlo, State.answer]
  · intro w
    rw [perform_write_reg s w h4 hhi, regWrite_of_reserved s w hlo]

/-- Settles O11: irq has no storage of its own, so it follows DONE and IE, which are both 0 after reset. -/
theorem irqIsDoneAndEnabled : Obligations.IrqIsDoneAndEnabled :=
  ⟨fun _ => rfl, rfl⟩

end Sys2Proof.Machine
end

section
/-! The host's bus errors: which accesses are legal, and when a step performs the oldest one; the statement of 20_memory.md on bus errors. -/

namespace Sys2Proof.Machine

/-! ### Which accesses are legal -/

/-- R39, R40: the legal accesses port by port and width by width. -/
theorem Access.legal_iff (c : Config) (a : Access) :
    a.legal c = true ↔
      (a.space = .reg ∧ a.width = .w32 ∧ a.addr % 4 = 0 ∧ a.addr ≤ 0xFFC) ∨
      (a.space = .bmem ∧ a.width = .w8 ∧ a.addr + 1 ≤ c.bmemSize) ∨
      (a.space = .bmem ∧ a.width = .w16 ∧ a.addr % 2 = 0 ∧ a.addr + 2 ≤ c.bmemSize) ∨
      (a.space = .bmem ∧ a.width = .w32 ∧ a.addr % 4 = 0 ∧ a.addr + 4 ≤ c.bmemSize) := by
  cases hs : a.space with
  | reg => simp [Access.legal, hs, and_assoc]
  | bmem => cases hw : a.width <;> simp [Access.legal, hs, hw, Width.bytes, Nat.mod_one]

/-! ### Bus errors -/

/-- R41: no legal access gets a bus error; an unwritten byte is another fault. -/
theorem perform_eq_busError_iff (s : State) (a : Access) :
    s.perform a = .fault (.busError a.space a.addr a.width) ↔ a.legal s.cfg = false := by
  rcases perform_cases s a with ⟨hl, he⟩ | ⟨hl, -, -, he⟩ | ⟨_, hl, -, -, he⟩ | ⟨_, hl, -, -, -, he⟩ |
    ⟨_, hl, -, -, -, he⟩ | ⟨_, hl, -, -, he⟩ <;> simp [hl, he]

/-- R47: an illegal access is never held. -/
theorem Access.held_of_illegal {s : State} {a : Access} (h : a.legal s.cfg = false) : a.held s = false := by
  simp [Access.held, h]

/-! ### When a step performs the oldest access -/

/-- R46: an idle block performs the oldest access. -/
theorem step_of_idle_cons {s : State} {a : Access} {rest : List Access} (hr : s.rst = false) (hb : s.busy = false)
    (hp : s.pending = a :: rest) : step s = s.dequeue.perform a := by
  simp [step, blockStep, hr, agentStep, hp, Access.held, contended, hb]

/-- R47, log 4: the host's move while a command runs performs the oldest access, if that is not held. -/
theorem step_of_host_move {s : State} {a : Access} {rest : List Access} (hr : s.rst = false) (hb : s.busy = true)
    (hp : s.pending = a :: rest) (hh : a.held s = false) (hn : s.nextAgent = .host) :
    step s = s.hostTurn.dequeue.perform a := by
  simp [step, blockStep, hr, agentStep, hp, hh, contended, hb, hn]

/-! ### The statement -/

/-- Settles O16: a bus error is exactly illegality, and an illegal access is never held, so the host's move performs it. -/
theorem busErrorExactlyForIllegalAccess : Obligations.BusErrorExactlyForIllegalAccess := by
  constructor
  · intro s a
    rw [perform_eq_busError_iff, ← Access.legal_iff, Bool.not_eq_true]
  · intro s a rest hr hp hl hturn
    cases hb : s.busy with
    | false =>
      rw [step_of_idle_cons hr hb hp]
      exact (perform_eq_busError_iff s.dequeue a).2 hl
    | true =>
      have hn : s.nextAgent = .host := hturn.resolve_left (by simp [hb])
      rw [step_of_host_move hr hb hp (Access.held_of_illegal hl) hn]
      exact (perform_eq_busError_iff s.hostTurn.dequeue a).2 hl

end Sys2Proof.Machine
end

section
/-! The decoder and the encoder: which words select a command, that each is its command's word alone, and how an illegal word ends; the statements of 30_encoding.md. -/

namespace Sys2Proof

/-! ### The opcode map -/

/-- R55, R53: every command's word is legal, and its fields are the command's OP under zero reserved bits. -/
theorem wordIsLegal (i : Instr) : Laws.WordIsLegal.Statement i := by
  cases i with
  | nop => exact Laws.WordIsLegal.nop
  | mask => exact Laws.WordIsLegal.mask
  | scramble => exact Laws.WordIsLegal.scramble
  | deobfuscate => exact Laws.WordIsLegal.deobfuscate
  | checksum => exact Laws.WordIsLegal.checksum
  | shuffle => exact Laws.WordIsLegal.shuffle
  | unshuffle => exact Laws.WordIsLegal.unshuffle
  | entDraw => exact Laws.WordIsLegal.entDraw
  | entFill => exact Laws.WordIsLegal.entFill
  | entSeed => exact Laws.WordIsLegal.entSeed

@[simp] theorem rsvdField_encode (i : Instr) : rsvdField (encode i) = 0 := (wordIsLegal i).1

@[simp] theorem opField_encode (i : Instr) : opField (encode i) = opcode i := (wordIsLegal i).2.1

/-- R55: 0x09 is the last OP of the table. -/
theorem opcode_toNat_le (i : Instr) : (opcode i).toNat ≤ 0x09 := (wordIsLegal i).2.2

@[simp] theorem instrOfOp_opcode (i : Instr) : instrOfOp (opcode i) = .ok i := by cases i <;> rfl

/-- The map gives a command only for that command's OP. -/
theorem eq_opcode_of_instrOfOp {op : Byte} {i : Instr} (h : instrOfOp op = .ok i) : op = opcode i := by
  unfold instrOfOp at h
  split at h <;> cases h <;> exact BitVec.eq_of_toNat_eq ‹_›

theorem instrOfOp_eq_ok_iff {op : Byte} {i : Instr} : instrOfOp op = .ok i ↔ op = opcode i :=
  ⟨eq_opcode_of_instrOfOp, fun h => h ▸ instrOfOp_opcode i⟩

/-! ### The fields of a word -/

/-- R53: a command word is RSVD above OP and nothing else. -/
theorem rsvdField_append_opField (w : Word) : rsvdField w ++ opField w = w := by
  unfold rsvdField opField
  rw [BitVec.extractLsb'_append_extractLsb'_eq_extractLsb' (by decide), BitVec.extractLsb'_eq_self]

/-- The mask of a command word's match is 0xFFFFFFFF: its two fields leave no bit free (R55). -/
theorem eq_encode_iff_fields {w : Word} {i : Instr} : w = encode i ↔ rsvdField w = 0 ∧ opField w = opcode i := by
  constructor
  · rintro rfl
    exact ⟨rsvdField_encode i, opField_encode i⟩
  · rintro ⟨hr, ho⟩
    calc w = rsvdField w ++ opField w := (rsvdField_append_opField w).symm
      _ = rsvdField (encode i) ++ opField (encode i) := by rw [hr, ho, rsvdField_encode, opField_encode]
      _ = encode i := rsvdField_append_opField (encode i)

/-! ### What decode answers -/

theorem decode_eq_ok_iff_fields {w : Word} {i : Instr} : decode w = .ok i ↔ rsvdField w = 0 ∧ opField w = opcode i := by
  unfold decode
  split
  next hr => simp [hr, instrOfOp_eq_ok_iff]
  next hr => exact ⟨nofun, fun h => absurd h.1 hr⟩

theorem decode_eq_ok_iff {w : Word} {i : Instr} : decode w = .ok i ↔ w = encode i :=
  decode_eq_ok_iff_fields.trans eq_encode_iff_fields.symm

/-- R56: a reserved bit that is set, or an OP past the table, selects no command. -/
theorem decode_ne_ok_of_illegal {w : Word} (h : rsvdField w ≠ 0 ∨ 0x0A ≤ (opField w).toNat) (i : Instr) :
    decode w ≠ .ok i := by
  intro hd
  obtain ⟨hr, ho⟩ := decode_eq_ok_iff_fields.1 hd
  cases h with
  | inl hrsvd => exact hrsvd hr
  | inr hop =>
    have hle := opcode_toNat_le i
    rw [← ho] at hle
    omega

/-! ### The statements -/

/-- Settles O22: the ten words by evaluation; both readings of "selects" by the fields of a word. -/
theorem decodeAgreesWithEncode : Obligations.DecodeAgreesWithEncode :=
  ⟨rfl, fun _ _ => decode_eq_ok_iff, fun _ _ => decode_eq_ok_iff_fields⟩

end Sys2Proof

namespace Sys2Proof.Machine

/-- Settles O24: of the two things the engine's step can do, an illegal word leaves only the ILLEGAL completion. -/
theorem illegalWordEndsWithIllegal : Obligations.IllegalWordEndsWithIllegal := by
  intro s hw
  obtain ⟨i, hd, -⟩ | ⟨_, -, hstep⟩ := engineStep_cases s
  · exact absurd hd (decode_ne_ok_of_illegal hw i)
  · exact hstep

end Sys2Proof.Machine
end

section
/-! Command control: what acceptance and completion leave in STATUS and irq, and the two ways a command can end; the statements of 40_command_control.md. -/

namespace Sys2Proof

/-- R66: the reserved bits are looked at first, so OP plays no part. -/
theorem decode_of_rsvdField_ne_zero {w : Word} (h : rsvdField w ≠ 0) : decode w = .error .reservedBits := if_neg h

end Sys2Proof

namespace Sys2Proof.Machine

/-! ### The flags after acceptance and after completion -/

/-- R30: acceptance clears DONE. -/
@[simp] theorem State.irq_accept (s : State) (w : Word) : (s.accept w).irq = false := rfl

/-- R64: of an earlier command's flags acceptance leaves nothing. -/
@[simp] theorem State.statusWord_accept (s : State) (w : Word) : (s.accept w).statusWord = 0x00000001#32 := by
  simp [State.statusWord, ErrCode.bits]

theorem State.statusWord_complete {s : State} (he : s.err = false) (hc : s.errCode = .none) :
    s.complete.statusWord = 0x00000002#32 := by
  simp [State.statusWord, he, hc, ErrCode.bits]

/-! ### The two ways a command can end -/

/-- State u has the IE and the error flags of s: what a command's work before its completion keeps. -/
def KeepsFlags (s u : State) : Prop := u.ie = s.ie ∧ u.err = s.err ∧ u.errCode = s.errCode

/-- The end t of a command that began in s: an error, which leaves s itself (R69), or the completion of a state with the flags of s (R70). -/
def CommandEnd (s t : State) : Prop :=
  (∃ c, c ≠ .none ∧ t = s.cmdError c) ∨ ∃ u, KeepsFlags s u ∧ t = u.complete

theorem commandEnd_cmdError (s : State) {c : ErrCode} (hc : c ≠ .none) : CommandEnd s (s.cmdError c) :=
  .inl ⟨c, hc, rfl⟩

theorem KeepsFlags.commandEnd {s u : State} (h : KeepsFlags s u) : CommandEnd s u.complete := .inr ⟨u, h, rfl⟩

theorem commandEnd_complete (s : State) : CommandEnd s s.complete :=
  KeepsFlags.commandEnd ⟨rfl, rfl, rfl⟩

theorem KeepsFlags.commandEnd_of_finishBmem {s u t : State} {r : Except Nat Memory} (hu : KeepsFlags s u)
    (h : u.finishBmem r = .next t) : CommandEnd s t := by
  obtain ⟨m, -, rfl⟩ := finishBmem_eq_next.1 h
  exact .inr ⟨u.withBmem m, hu, rfl⟩

theorem commandEnd_of_execMask {s t : State} (h : execMask s = .next t) : CommandEnd s t := by
  obtain ⟨he, -⟩ | ⟨-, -, he, -⟩ | ⟨-, -, -, -, -, he⟩ | ⟨-, -, -, -, -, he⟩ := execMask_cases s <;> rw [he] at h
  · cases h; exact commandEnd_complete s
  · cases h; exact commandEnd_cmdError s (by decide)
  · cases h; exact commandEnd_cmdError s (by decide)
  · exact KeepsFlags.commandEnd_of_finishBmem ⟨rfl, rfl, rfl⟩ h

theorem commandEnd_of_mapBuffer {f : Byte → Byte} {s t : State} (h : mapBuffer f s = .next t) : CommandEnd s t := by
  obtain ⟨he, -⟩ | ⟨-, -, he⟩ | ⟨-, -, he⟩ := mapBuffer_cases f s <;> rw [he] at h
  · cases h; exact commandEnd_complete s
  · cases h; exact commandEnd_cmdError s (by decide)
  · exact KeepsFlags.commandEnd_of_finishBmem ⟨rfl, rfl, rfl⟩ h

theorem commandEnd_of_execChecksum {s t : State} (h : execChecksum s = .next t) : CommandEnd s t := by
  obtain ⟨he, -⟩ | ⟨-, -, he⟩ | ⟨-, -, w, -, he⟩ | ⟨-, -, x, -, he⟩ := execChecksum_cases s <;> rw [he] at h <;> cases h
  · exact KeepsFlags.commandEnd ⟨rfl, rfl, rfl⟩
  · exact commandEnd_cmdError s (by decide)
  · exact KeepsFlags.commandEnd ⟨rfl, rfl, rfl⟩

theorem commandEnd_of_execShuffle {s t : State} (h : execShuffle s = .next t) : CommandEnd s t := by
  obtain ⟨he, -⟩ | ⟨-, -, he⟩ | ⟨-, -, he⟩ := execShuffle_cases s <;> rw [he] at h
  · cases h; exact commandEnd_complete s
  · cases h; exact commandEnd_cmdError s (by decide)
  · exact KeepsFlags.commandEnd_of_finishBmem (u := s.withLcg (lcgAfter (s.bufN - 1) s.seed)) ⟨rfl, rfl, rfl⟩ h

theorem commandEnd_of_execUnshuffle {s t : State} (h : execUnshuffle s = .next t) : CommandEnd s t := by
  obtain ⟨he, -⟩ | ⟨-, -, he⟩ | ⟨-, -, u, -, he⟩ | ⟨-, -, x, -, he⟩ := execUnshuffle_cases s <;> rw [he] at h <;> cases h
  · exact commandEnd_complete s
  · exact commandEnd_cmdError s (by decide)
  · exact KeepsFlags.commandEnd ⟨rfl, rfl, rfl⟩

theorem commandEnd_of_execEntFill {s t : State} (h : execEntFill s = .next t) : CommandEnd s t := by
  obtain ⟨he, -⟩ | ⟨-, -, he⟩ | ⟨-, -, he⟩ := execEntFill_cases s <;> rw [he] at h
  · cases h; exact commandEnd_complete s
  · cases h; exact commandEnd_cmdError s (by decide)
  · exact KeepsFlags.commandEnd_of_finishBmem (u := s.takeWeak s.bufN) ⟨rfl, rfl, rfl⟩ h

/-- NOP, ENT_DRAW and ENT_SEED have no check: they only complete. -/
theorem commandEnd_of_exec {i : Instr} {s t : State} (h : exec i s = .next t) : CommandEnd s t := by
  cases i with
  | nop => cases h; exact commandEnd_complete s
  | mask => exact commandEnd_of_execMask h
  | scramble => exact commandEnd_of_mapBuffer h
  | deobfuscate => exact commandEnd_of_mapBuffer h
  | checksum => exact commandEnd_of_execChecksum h
  | shuffle => exact commandEnd_of_execShuffle h
  | unshuffle => exact commandEnd_of_execUnshuffle h
  | entDraw => cases h; exact KeepsFlags.commandEnd ⟨rfl, rfl, rfl⟩
  | entFill => exact commandEnd_of_execEntFill h
  | entSeed => cases h; exact KeepsFlags.commandEnd ⟨rfl, rfl, rfl⟩

/-- An illegal word ends as a command does, with an error. -/
theorem commandEnd_of_engineStep {s t : State} (h : engineStep s = .next t) : CommandEnd s t := by
  obtain ⟨i, -, he⟩ | ⟨e, -, he⟩ := engineStep_cases s <;> rw [he] at h
  · exact commandEnd_of_exec h
  · cases h; exact commandEnd_cmdError s (by decide)

/-! ### The statements -/

/-- Settles O27: an end without an error keeps the ERR = 0 that acceptance left, so ERR = 1 leaves only the error's end. -/
theorem commandErrorChangesOnlyStatus : Obligations.CommandErrorChangesOnlyStatus := by
  intro s t hrun hstep herr
  obtain ⟨-, -, hs, -⟩ := hrun
  obtain ⟨c, hc, rfl⟩ | ⟨u, ⟨-, hu, -⟩, rfl⟩ := commandEnd_of_engineStep hstep
  · exact ⟨rfl, hc⟩
  · exact absurd herr (by simp [hu, hs])

/-- Settles O12: CMD's write effect at its offset is acceptance; while BUSY = 1 it is held as every legal write is. -/
theorem cmdWriteIsAcceptance : Obligations.CmdWriteIsAcceptance := by
  intro s w
  constructor
  · intro _
    exact ⟨s.accept w, perform_write_offset s .cmd w, rfl, State.irq_accept s w⟩
  · intro hb
    exact held_write_reg w hb (by decide) (by decide)

/-- Settles O31: acceptance clears the flags of any earlier command, and NOP's completion then sets DONE alone. -/
theorem nopOnlyCompletes : Obligations.NopOnlyCompletes := by
  refine ⟨rfl, fun w _ hr => decode_of_rsvdField_ne_zero hr, fun _ => rfl, fun s _ => ⟨State.statusWord_accept s 0, ?_⟩⟩
  exact ⟨(s.accept 0).complete, rfl, State.statusWord_complete rfl rfl⟩

end Sys2Proof.Machine
end

section
/-! The Byte Masker: what a finished masking loop says about the array it began in, and how a second one undoes it; the statement of 41_byte_masker.md on the involution. -/

namespace Sys2Proof.Machine

/-! ### What a finished store loop did -/

/-- A store loop that stores its iteration i at a + i, and that finishes, ran each iteration in an array where
only the entries of earlier iterations had changed, and what that iteration stored is still there. -/
theorem Sparse.storeLoop_ok_iteration {α : Type} {body : Sparse α → Nat → Except Nat (Nat × α)} {a n i0 i : Nat}
    {m0 m' : Sparse α} (ht : ∀ m i k v, body m i = .ok (k, v) → k = a + i) (h : storeLoop body n i0 m0 = .ok m')
    (hlo : i0 ≤ i) (hhi : i < i0 + n) :
    ∃ m v, (∀ x, ¬ InRegion (a + i0) (i - i0) x → read m x = read m0 x) ∧ body m i = .ok (a + i, v) ∧
      read m' (a + i) = some v := by
  induction n generalizing i0 m0 with
  | zero => omega
  | succ n ih =>
    simp only [storeLoop] at h
    split at h
    next => cases h
    next k v hb =>
      obtain rfl := ht m0 i0 k v hb
      obtain rfl | hlt := Nat.eq_or_lt_of_le hlo
      · have hkept : read m' (a + i0) = read (write m0 (a + i0) v) (a + i0) :=
          storeLoop_read_of_ne (fun m j k w hj _ hbody => by have := ht m j k w hbody; omega) h
        exact ⟨m0, v, fun _ _ => rfl, hb, by rw [hkept, read_write_self]⟩
      · obtain ⟨m, w, hm, hbody, hread⟩ := ih h hlt (by omega)
        refine ⟨m, w, fun x hx => ?_, hbody, hread⟩
        simp only [InRegion] at hm hx
        rw [hm x (by omega), read_write_ne _ _ (by omega)]

/-! ### The masking loop -/

theorem inRegion_add {a n i : Nat} (h : i < n) : InRegion a n (a + i) := ⟨by omega, by omega⟩

theorem exists_add_of_inRegion {a n x : Nat} (h : InRegion a n x) : ∃ i, i < n ∧ x = a + i :=
  ⟨x - a, by have := h.1; have := h.2; omega, by have := h.1; omega⟩

/-- R75: the key byte of iteration i is a byte of the key region. -/
theorem inRegion_keyByte {ka kl : Nat} (i : Nat) (hkl : kl ≠ 0) : InRegion ka kl (ka + i % kl) :=
  inRegion_add (Nat.mod_lt i (Nat.pos_of_ne_zero hkl))

section
variable {a n ka kl : Nat} {m m' m2 : Memory}

/-- A masking loop that finishes read a written key byte and a written buffer byte for each i, and stored their XOR. -/
theorem maskLoop_ok_bytes (hkl : kl ≠ 0) (hdisj : ∀ x, InRegion ka kl x → ¬ InRegion a n x)
    (h : Sparse.storeLoop (maskByte a ka kl) n 0 m = .ok m') {i : Nat} (hi : i < n) :
    ∃ k v, Sparse.read m (ka + i % kl) = some k ∧ Sparse.read m (a + i) = some v ∧
      Sparse.read m' (a + i) = some (v ^^^ k) := by
  have htarget : ∀ m i x b, maskByte a ka kl m i = .ok (x, b) → x = a + i := fun m i x b hb => by
    obtain ⟨-, -, -, -, hx, -⟩ := maskByte_eq_ok.1 hb
    exact hx
  obtain ⟨mi, b, hmi, hb, hread⟩ := Sparse.storeLoop_ok_iteration htarget h (Nat.zero_le i) (by omega)
  obtain ⟨k, v, hk, hv, -, rfl⟩ := maskByte_eq_ok.1 hb
  have hkey := hdisj _ (inRegion_keyByte i hkl)
  refine ⟨k, v, ?_, ?_, hread⟩
  · rw [← hmi _ fun hx => hkey ⟨hx.1, by have := hx.2; omega⟩, hk]
  · rw [← hmi _ fun hx => by have := hx.2; omega, hv]

theorem maskLoop_frame (h : Sparse.storeLoop (maskByte a ka kl) n 0 m = .ok m') {x : Nat} (hx : ¬ InRegion a n x) :
    Sparse.read m' x = Sparse.read m x := by
  refine Sparse.storeLoop_read_of_ne (fun mi i y b _ hi hb => ?_) h
  obtain ⟨-, -, -, -, rfl, -⟩ := maskByte_eq_ok.1 hb
  rintro rfl
  exact hx (inRegion_add (by omega))

/-- R76: the first loop leaves the key as it was, so in an array with its bytes a second loop finishes, and (b ^ k) ^ k = b. -/
theorem maskLoop_restores (hkl : kl ≠ 0) (hdisj : ∀ x, InRegion ka kl x → ¬ InRegion a n x)
    (h : Sparse.storeLoop (maskByte a ka kl) n 0 m = .ok m')
    (hm2 : ∀ x, InRegion a n x ∨ InRegion ka kl x → Sparse.read m2 x = Sparse.read m' x) :
    ∃ u, Sparse.storeLoop (maskByte a ka kl) n 0 m2 = .ok u ∧
      ∀ x, InRegion a n x → Sparse.read u x = Sparse.read m x := by
  obtain ⟨u, hu, hval, -⟩ := Sparse.storeLoop_region (body := maskByte a ka kl) (a := a) (n := n)
    (val := fun i => (Sparse.read m (a + i)).getD 0) m2 fun i mi hi hmi => by
      obtain ⟨k, v, hk, hv, hvk⟩ := maskLoop_ok_bytes hkl hdisj h hi
      have hreg := inRegion_keyByte (ka := ka) i hkl
      have hkey : Sparse.read mi (ka + i % kl) = some k := by
        rw [hmi _ fun hx => hdisj _ hreg ⟨hx.1, by have := hx.2; omega⟩, hm2 _ (.inr hreg),
          maskLoop_frame h (hdisj _ hreg), hk]
      have hbuf : Sparse.read mi (a + i) = some (v ^^^ k) := by
        rw [hmi _ fun hx => by have := hx.2; omega, hm2 _ (.inl (inRegion_add hi)), hvk]
      have hxor : v = v ^^^ k ^^^ k := by rw [BitVec.xor_assoc, BitVec.xor_self, BitVec.xor_zero]
      exact maskByte_eq_ok.2 ⟨k, v ^^^ k, hkey, hbuf, rfl, by rw [hv, Option.getD_some, ← hxor]⟩
  refine ⟨u, hu, fun x hx => ?_⟩
  obtain ⟨i, hi, rfl⟩ := exists_add_of_inRegion hx
  obtain ⟨k, v, -, hv, -⟩ := maskLoop_ok_bytes hkl hdisj h hi
  rw [hval i hi, hv, Option.getD_some]

end

/-! ### When MASK runs its loop -/

/-- The state passes MASK's two no-op conditions and its three checks (R75). -/
structure MaskChecked (s : State) : Prop where
  keyN_ne_zero : s.keyN ≠ 0
  bufN_ne_zero : s.bufN ≠ 0
  bufInRange : s.bufInRange = true
  keyInRange : s.keyInRange = true
  no_overlap : s.regionsOverlap = false

theorem MaskChecked.disjoint {s : State} (h : MaskChecked s) (x : Nat) (hk : InRegion s.keyA s.keyN x) :
    ¬ InRegion s.bufA s.bufN x := by
  have := (s.regionsOverlap_eq_false_iff (Nat.pos_of_ne_zero h.bufN_ne_zero) (Nat.pos_of_ne_zero h.keyN_ne_zero)).1
    h.no_overlap
  rintro ⟨hlo, hhi⟩
  obtain ⟨hklo, hkhi⟩ := hk
  omega

theorem execMask_of_empty {s : State} (h : s.keyN = 0 ∨ s.bufN = 0) : execMask s = .next s.complete := by
  unfold execMask
  obtain hk | hb := h
  · rw [if_pos hk]
  · rw [if_pos hb, ite_self]

theorem execMask_of_checked {s : State} (h : MaskChecked s) :
    execMask s = s.finishBmem (Sparse.storeLoop (maskByte s.bufA s.keyA s.keyN) s.bufN 0 s.bmem) := by
  simp [execMask, h.keyN_ne_zero, h.bufN_ne_zero, h.bufInRange, h.keyInRange, h.no_overlap]

/-- The two ways MASK can succeed. -/
theorem execMask_success {s t : State} (h : execMask s = .next t) (he : t.err = false) :
    ((s.keyN = 0 ∨ s.bufN = 0) ∧ t = s.complete) ∨
    (MaskChecked s ∧ ∃ m, Sparse.storeLoop (maskByte s.bufA s.keyA s.keyN) s.bufN 0 s.bmem = .ok m ∧
      t = (s.withBmem m).complete) := by
  obtain ⟨hx, h0⟩ | ⟨-, -, hx, -⟩ | ⟨-, -, -, -, -, hx⟩ | ⟨hk, hn, hb, hkr, ho, hx⟩ := execMask_cases s <;> rw [hx] at h
  · cases h; exact .inl ⟨h0, rfl⟩
  · cases h; simp at he
  · cases h; simp at he
  · exact .inr ⟨⟨hk, hn, hb, hkr, ho⟩, finishBmem_eq_next.1 h⟩

/-! ### States with the same operands -/

/-- State u has the configuration and the region registers of s, all that MASK's conditions and checks look at. -/
structure SameRegions (s u : State) : Prop where
  cfg : u.cfg = s.cfg
  bufAddr : u.bufAddr = s.bufAddr
  bufLen : u.bufLen = s.bufLen
  keyAddr : u.keyAddr = s.keyAddr
  keyLen : u.keyLen = s.keyLen

namespace SameRegions
variable {s u : State}

theorem bufA (h : SameRegions s u) : u.bufA = s.bufA := congrArg BitVec.toNat h.bufAddr
theorem bufN (h : SameRegions s u) : u.bufN = s.bufN := congrArg BitVec.toNat h.bufLen
theorem keyA (h : SameRegions s u) : u.keyA = s.keyA := congrArg BitVec.toNat h.keyAddr
theorem keyN (h : SameRegions s u) : u.keyN = s.keyN := congrArg BitVec.toNat h.keyLen

theorem maskChecked (h : SameRegions s u) (hs : MaskChecked s) : MaskChecked u where
  keyN_ne_zero := h.keyN ▸ hs.keyN_ne_zero
  bufN_ne_zero := h.bufN ▸ hs.bufN_ne_zero
  bufInRange := by rw [State.bufInRange, h.cfg, h.bufA, h.bufN]; exact hs.bufInRange
  keyInRange := by rw [State.keyInRange, h.cfg, h.keyA, h.keyN]; exact hs.keyInRange
  no_overlap := by rw [State.regionsOverlap, h.bufA, h.bufN, h.keyA, h.keyN]; exact hs.no_overlap

end SameRegions

/-! ### The statement -/

/-- Settles O34: MASK's success leaves the operands as they were, so the second MASK is the same no-op, or its loop restores the buffer. -/
theorem maskIsAnInvolution : Obligations.MaskIsAnInvolution := by
  intro s t s2 _ hexec herr hrun2 hcfg hba hbl hka hkl hbytes
  obtain ⟨-, -, herr2, -⟩ := hrun2
  obtain ⟨hempty, rfl⟩ | ⟨hchecked, m, hloop, rfl⟩ := execMask_success hexec herr
  · have hsame : SameRegions s s2 := ⟨hcfg, hba, hbl, hka, hkl⟩
    exact ⟨s2.complete, execMask_of_empty (by rwa [hsame.keyN, hsame.bufN]), herr2, fun x hx => hbytes x (.inl hx)⟩
  · have hsame : SameRegions s s2 := ⟨hcfg, hba, hbl, hka, hkl⟩
    obtain ⟨u, hu, hread⟩ := maskLoop_restores hchecked.keyN_ne_zero hchecked.disjoint hloop hbytes
    refine ⟨(s2.withBmem u).complete, ?_, herr2, hread⟩
    calc exec .mask s2
        = s2.finishBmem (Sparse.storeLoop (maskByte s2.bufA s2.keyA s2.keyN) s2.bufN 0 s2.bmem) :=
          execMask_of_checked (hsame.maskChecked hchecked)
      _ = s2.finishBmem (.ok u) := by rw [hsame.bufA, hsame.keyA, hsame.keyN, hsame.bufN, hu]

end Sys2Proof.Machine
end

section
/-! The Bit Scrambler's round trips (42_bit_scrambler.md). The one idea: deobfuscation undoes "rotate left by 3, then XOR 0xA5", and SCRAMBLE is that same map with some bits of its result forced to 1, the ones of 0xA5 under ROTATE and the ones of 0xA0 under SHIFT. So a round trip loses exactly the forced bits. -/

namespace Sys2Proof.Machine

/-! ### Rotations -/

theorem rotateRight_rotateLeft {w : Nat} (x : BitVec w) (r : Nat) : (x.rotateLeft r).rotateRight r = x := by
  refine BitVec.eq_of_getElem_eq fun i hi => ?_
  have hr : r % w < w := Nat.mod_lt r (by omega)
  simp only [BitVec.getElem_rotateRight, BitVec.getElem_rotateLeft]
  by_cases h : i < w - r % w
  · have hback : r % w + i - r % w = i := by omega
    simp [h, hback]
  · have hwrap : w - r % w + (i - (w - r % w)) = i := by omega
    have hlow : i - (w - r % w) < r % w := by omega
    simp [h, hlow, hwrap]

theorem rotateLeft_rotateRight {w : Nat} (x : BitVec w) (r : Nat) : (x.rotateRight r).rotateLeft r = x := by
  refine BitVec.eq_of_getElem_eq fun i hi => ?_
  have hr : r % w < w := Nat.mod_lt r (by omega)
  simp only [BitVec.getElem_rotateRight, BitVec.getElem_rotateLeft]
  by_cases h : i < r % w
  · have hback : w - r % w + i - (w - r % w) = i := by omega
    simp [h, hback]
  · have hwrap : r % w + (i - r % w) = i := by omega
    have hlow : i - r % w < w - r % w := by omega
    simp [h, hlow, hwrap]

theorem rotateRight_and {w : Nat} (x y : BitVec w) (r : Nat) :
    (x &&& y).rotateRight r = x.rotateRight r &&& y.rotateRight r := by
  refine BitVec.eq_of_getElem_eq fun i hi => ?_
  simp only [BitVec.getElem_rotateRight, BitVec.getElem_and]
  split <;> rfl

theorem rotl8_eq_rotateLeft (b : Byte) {k : Nat} (hk : k < 8) : rotl8 b k = b.rotateLeft k :=
  (BitVec.rotateLeft_eq_rotateLeftAux_of_lt hk).symm

theorem rotr8_eq_rotateRight (b : Byte) {k : Nat} (hk : k < 8) : rotr8 b k = b.rotateRight k :=
  (BitVec.rotateRight_eq_rotateRightAux_of_lt hk).symm

/-- On 8 bits, rotating right by 8 - k is rotating left by k. -/
theorem rotr8_sub_eq_rotl8 (b : Byte) {k : Nat} (hk : k ≤ 8) : rotr8 b (8 - k) = rotl8 b k := by
  rw [rotr8, rotl8, Nat.sub_sub_self hk, BitVec.or_comm]

/-! ### Masks -/

theorem and_eq_self_iff {w : Nat} (b m : BitVec w) : b &&& m = b ↔ b &&& ~~~m = 0#w := by
  simp [BitVec.eq_of_getElem_eq_iff]

theorem or_eq_self_iff {w : Nat} (b m : BitVec w) : b ||| m = b ↔ b &&& m = m := by
  simp [BitVec.eq_of_getElem_eq_iff]

theorem or_xor_eq_xor_or {w : Nat} (x m : BitVec w) : x ||| (x ^^^ m) = (x ^^^ m) ||| m := by
  refine BitVec.eq_of_getElem_eq fun i hi => ?_
  simp only [BitVec.getElem_or, BitVec.getElem_xor]
  cases x[i] <;> cases m[i] <;> rfl

/-- Bits m forced to 1 between two XORs with k come out as 0, when k holds every bit of m. -/
theorem xor_or_xor {w : Nat} {m k : BitVec w} (x : BitVec w) (hmk : m &&& k = m) :
    ((x ^^^ k) ||| m) ^^^ k = x &&& ~~~m := by
  refine BitVec.eq_of_getElem_eq fun i hi => ?_
  have hbit : (m[i] && k[i]) = m[i] := by rw [← BitVec.getElem_and, hmk]
  simp only [BitVec.getElem_or, BitVec.getElem_xor, BitVec.getElem_and, BitVec.getElem_not]
  cases hm : m[i] with
  | false => simp
  | true =>
    have hk : k[i] = true := by simpa [hm] using hbit
    simp [hk]

/-! ### The byte functions -/

/-- The bits of scramble_byte's result that are 1 whatever the byte (R77). -/
def forcedOnes : ScrambleForm → Byte
  | .rotate => 0xA5#8
  | .shift => 0xA0#8

/-- DEOBFUSCATE XORs with every forced bit. -/
theorem forcedOnes_and_key (f : ScrambleForm) : forcedOnes f &&& 0xA5#8 = forcedOnes f := by cases f <;> rfl

/-- R79's closed form. -/
theorem deobfuscateByte_eq (b : Byte) : deobfuscateByte b = (b ^^^ 0xA5#8).rotateRight 3 := by
  have h53 : rotl8 (b ^^^ 0xA5#8) 5 = rotr8 (b ^^^ 0xA5#8) 3 := (rotr8_sub_eq_rotl8 _ (k := 5) (by decide)).symm
  rw [deobfuscateByte, h53, BitVec.or_self, rotr8_eq_rotateRight _ (by decide)]

/-- Under SHIFT the two shifted parts of b stand where the rotation puts them: b <<< 3 has no bit below 3 and b >>> 5 none from 3 on. -/
theorem scrambleByte_shift_eq (b : Byte) : scrambleByte .shift b = (rotl8 b 3 ^^^ 0xA5#8) ||| 0xA0#8 := by
  have hforced : ∀ i < 3, (0xA0#8).getLsbD i = false := by decide
  have hkey : ∀ i < 8, 3 ≤ i → (0xA5#8).getLsbD i = (0xA0#8).getLsbD i := by decide
  refine BitVec.eq_of_getLsbD_eq fun i hi => ?_
  simp only [scrambleByte, rotl8, BitVec.getLsbD_or, BitVec.getLsbD_xor, BitVec.getLsbD_shiftLeft, BitVec.getLsbD_ushiftRight]
  by_cases h : i < 3
  · simp [h, hforced i h]
  · have hhigh : b.getLsbD (5 + i) = false := BitVec.getLsbD_of_ge b (5 + i) (by omega)
    rw [hhigh, hkey i hi (by omega), Bool.or_false, Bool.false_xor]
    cases (0xA0#8).getLsbD i <;> simp

/-- Both of R77's forms are one map, the inverse of DEOBFUSCATE's, with the form's bits forced to 1. -/
theorem scrambleByte_eq (f : ScrambleForm) (b : Byte) :
    scrambleByte f b = (b.rotateLeft 3 ^^^ 0xA5#8) ||| forcedOnes f := by
  rw [← rotl8_eq_rotateLeft b (by decide)]
  cases f with
  | rotate =>
    have h53 : rotr8 b 5 = rotl8 b 3 := rotr8_sub_eq_rotl8 b (k := 3) (by decide)
    rw [scrambleByte, h53, or_xor_eq_xor_or, forcedOnes]
  | shift => exact scrambleByte_shift_eq b

/-! ### The round trips -/

/-- R81: the bits that survive are the ones SCRAMBLE does not force, in the places DEOBFUSCATE rotates them to. -/
theorem deobfuscateByte_scrambleByte (f : ScrambleForm) (b : Byte) :
    deobfuscateByte (scrambleByte f b) = b &&& (~~~forcedOnes f).rotateRight 3 := by
  rw [deobfuscateByte_eq, scrambleByte_eq, xor_or_xor _ (forcedOnes_and_key f), rotateRight_and, rotateRight_rotateLeft]

/-- R81, the other order: nothing is lost, the forced bits are set. -/
theorem scrambleByte_deobfuscateByte (f : ScrambleForm) (b : Byte) :
    scrambleByte f (deobfuscateByte b) = b ||| forcedOnes f := by
  rw [scrambleByte_eq, deobfuscateByte_eq, rotateLeft_rotateRight, BitVec.xor_assoc, BitVec.xor_self, BitVec.xor_zero]

theorem deobfuscateByte_scrambleByte_eq_self_iff (f : ScrambleForm) (b : Byte) :
    deobfuscateByte (scrambleByte f b) = b ↔ b &&& ~~~(~~~forcedOnes f).rotateRight 3 = 0#8 := by
  rw [deobfuscateByte_scrambleByte, and_eq_self_iff]

theorem scrambleByte_deobfuscateByte_eq_self_iff (f : ScrambleForm) (b : Byte) :
    scrambleByte f (deobfuscateByte b) = b ↔ b &&& forcedOnes f = forcedOnes f := by
  rw [scrambleByte_deobfuscateByte, or_eq_self_iff]

/-- Settles O39: the two orders' general laws at each form, whose masks are the statement's numbers by evaluation. -/
theorem scrambleRoundTripRecord : Obligations.ScrambleRoundTripRecord :=
  ⟨deobfuscateByte_scrambleByte .rotate, deobfuscateByte_scrambleByte_eq_self_iff .rotate,
    deobfuscateByte_scrambleByte .shift, deobfuscateByte_scrambleByte_eq_self_iff .shift,
    scrambleByte_deobfuscateByte .rotate, scrambleByte_deobfuscateByte_eq_self_iff .rotate,
    scrambleByte_deobfuscateByte .shift, scrambleByte_deobfuscateByte_eq_self_iff .shift⟩

end Sys2Proof.Machine
end

section
/-! The Checksum Computer (43_checksum.md). The one idea: RESULT is a function of the list of the buffer's bytes that no permutation of the list changes, and a SHUFFLE or UNSHUFFLE that succeeds permutes that list. -/

namespace Sys2Proof.Machine

/-! ### The sum of a list of bytes -/

/-- The sum R83 names, of unsigned bytes modulo 2^32. -/
def byteSum (l : List Byte) : Word := BitVec.ofNat 32 (l.map BitVec.toNat).sum

theorem byteSum_eq_of_perm {l l' : List Byte} (h : l.Perm l') : byteSum l = byteSum l' :=
  congrArg (BitVec.ofNat 32) (h.map BitVec.toNat).sum_nat

theorem sumLoop_eq_byteSum {m : Memory} {n a : Nat} (hw : Written m a n) :
    sumLoop m n a 0 = .ok (byteSum (regionBytes m a n)) :=
  (sumLoop_written 0 hw).trans (congrArg Except.ok (BitVec.zero_add _))

/-- A sum loop that finishes met no unwritten byte: it would have stopped at the first one. -/
theorem written_of_sumLoop_ok {m : Memory} {n a : Nat} {acc w : Word} (h : sumLoop m n a acc = .ok w) : Written m a n := by
  intro i
  induction i using Nat.strong_induction_on with
  | h i ih =>
    intro hi
    cases hr : Sparse.read m (a + i) with
    | some b => exact ⟨b, rfl⟩
    | none =>
      have hstop := sumLoop_unwritten (acc := acc) hi (fun j hj => ih j hj (hj.trans hi)) hr
      cases h.symm.trans hstop

/-! ### What CHECKSUM answers -/

/-- R83 for a written buffer in range, the empty one included: the sum of no bytes is 0. -/
theorem execChecksum_of_written {s : State} (hr : s.bufInRange = true) (hw : Written s.bmem s.bufA s.bufN) :
    execChecksum s = .next (s.withResult (byteSum (regionBytes s.bmem s.bufA s.bufN))).complete := by
  have hsum := sumLoop_eq_byteSum hw
  obtain ⟨he, hn⟩ | ⟨-, hout, -⟩ | ⟨-, -, w, hloop, he⟩ | ⟨-, -, x, hloop, -⟩ := execChecksum_cases s
  · rw [he, hn]
    rfl
  · cases hr.symm.trans hout
  · cases hsum.symm.trans hloop
    exact he
  · cases hsum.symm.trans hloop

theorem written_of_execChecksum {s u : State} (hr : s.bufInRange = true) (h : execChecksum s = .next u) :
    Written s.bmem s.bufA s.bufN := by
  obtain ⟨-, hn⟩ | ⟨-, hout, -⟩ | ⟨-, -, w, hloop, -⟩ | ⟨-, -, x, -, he⟩ := execChecksum_cases s
  · intro i hi
    omega
  · cases hr.symm.trans hout
  · exact written_of_sumLoop_ok hloop
  · cases he.symm.trans h

theorem result_of_execChecksum {s u : State} (hr : s.bufInRange = true) (h : execChecksum s = .next u) :
    u.result = byteSum (regionBytes s.bmem s.bufA s.bufN) := by
  cases (execChecksum_of_written hr (written_of_execChecksum hr h)).symm.trans h
  rfl

/-! ### Regions in permuted order -/

/-- Byte i of the one region is byte P(i) of the other, P a permutation of the positions. -/
theorem regionBytes_perm_of_read {m m' : Memory} {a n : Nat} {P : Nat → Nat}
    (hP : ((List.range n).map P).Perm (List.range n))
    (hread : ∀ i, i < n → Sparse.read m' (a + i) = Sparse.read m (a + P i)) :
    (regionBytes m' a n).Perm (regionBytes m a n) := by
  have hlist : regionBytes m' a n = ((List.range n).map P).map fun i => (Sparse.read m (a + i)).getD 0 := by
    rw [List.map_map]
    exact List.map_congr_left fun i hi => by rw [hread i (List.mem_range.1 hi), Function.comp_apply]
  rw [hlist]
  exact hP.map _

/-- SHUFFLE's swaps: out[i] = in[P(i)] (R90). -/
theorem applySwaps_permutes_region {m m' : Memory} {a n : Nat} {l : List (Nat × Nat)} (hl : ∀ p ∈ l, p.1 < n ∧ p.2 < n)
    (hw : Written m a n) (h : Sparse.applySwaps a l m = .ok m') :
    Written m' a n ∧ (regionBytes m' a n).Perm (regionBytes m a n) :=
  ⟨Sparse.applySwaps_induct (P := fun m => Written m a n) (fun _ _ _ _ => Sparse.swap_written) hw h,
    regionBytes_perm_of_read (range_map_applySwapsTo_perm hl) fun i _ =>
      (Sparse.read_applySwaps h i).trans (applySwapsTo_eq_comp_id _ l i)⟩

/-- UNSHUFFLE's arrays: out[P(i)] = in[i] (R90). -/
theorem unshuffleArrays_permutes_region {m : Memory} {a n : Nat} (hn : 0 < n) (seed : Word) (t : Sparse Nat) (u : Sparse Byte)
    (hw : Written m a n) :
    ∃ r, unshuffleArrays a n seed t u m = .ok r ∧ Written r.bmem a n ∧
      (regionBytes r.bmem a n).Perm (regionBytes m a n) := by
  obtain ⟨r, hr, -, hread, -⟩ := unshuffleArrays_ok hn seed t u hw
  have hl : ∀ p ∈ swapSeq n seed, p.1 < n ∧ p.2 < n := fun p hp => swapSeq_lt hn hp
  refine ⟨r, hr, fun k hk => ?_, ?_⟩
  · obtain ⟨i, hi, rfl⟩ := applySwapsTo_id_surj hl hk
    rw [hread i hi]
    exact hw i hi
  · exact (regionBytes_perm_of_read (range_map_applySwapsTo_perm hl) fun i hi => (hread i hi).symm).symm

/-! ### SHUFFLE and UNSHUFFLE permute the buffer -/

/-- State t has the buffer region of s, in range and written, with its bytes in some order. -/
structure PermutedBuffer (s t : State) : Prop where
  bufA : t.bufA = s.bufA
  bufN : t.bufN = s.bufN
  bufInRange : t.bufInRange = true
  written : Written t.bmem s.bufA s.bufN
  perm : (regionBytes t.bmem s.bufA s.bufN).Perm (regionBytes s.bmem s.bufA s.bufN)

section
variable {s : State} (hr : s.bufInRange = true) (hw : Written s.bmem s.bufA s.bufN)
include hr hw

/-- How both commands end on fewer than two bytes (R88, R89). -/
theorem permutedBuffer_complete : PermutedBuffer s s.complete := ⟨rfl, rfl, hr, hw, .refl _⟩

theorem execShuffle_permutes_buffer : ∃ t, execShuffle s = .next t ∧ PermutedBuffer s t := by
  obtain ⟨he, -⟩ | ⟨-, hout, -⟩ | ⟨hn, -, he⟩ := execShuffle_cases s
  · exact ⟨_, he, permutedBuffer_complete hr hw⟩
  · cases hr.symm.trans hout
  · have hl : ∀ p ∈ swapSeq s.bufN s.seed, p.1 < s.bufN ∧ p.2 < s.bufN := fun p hp => swapSeq_lt (by omega) hp
    obtain ⟨m, hm⟩ := Sparse.applySwaps_ok hl hw
    obtain ⟨hwritten, hperm⟩ := applySwaps_permutes_region hl hw hm
    rw [hm] at he
    exact ⟨_, he, rfl, rfl, hr, hwritten, hperm⟩

theorem execUnshuffle_permutes_buffer : ∃ t, execUnshuffle s = .next t ∧ PermutedBuffer s t := by
  obtain ⟨he, -⟩ | ⟨-, hout, -⟩ | ⟨hn, -, u, hu, he⟩ | ⟨hn, -, x, hx, -⟩ := execUnshuffle_cases s
  · exact ⟨_, he, permutedBuffer_complete hr hw⟩
  · cases hr.symm.trans hout
  all_goals obtain ⟨r, hok, hwritten, hperm⟩ := unshuffleArrays_permutes_region (by omega) s.seed s.trace s.tmp hw
  · cases hok.symm.trans hu
    exact ⟨_, he, rfl, rfl, hr, hwritten, hperm⟩
  · cases hok.symm.trans hx

theorem PermutedBuffer.checksum_eq {t : State} (h : PermutedBuffer s t) :
    ∃ u v, execChecksum s = .next u ∧ execChecksum t = .next v ∧ v.result = u.result := by
  have hwt : Written t.bmem t.bufA t.bufN := by
    rw [h.bufA, h.bufN]
    exact h.written
  have hu := execChecksum_of_written hr hw
  have hv := execChecksum_of_written h.bufInRange hwt
  refine ⟨_, _, hu, hv, ?_⟩
  rw [result_of_execChecksum hr hu, result_of_execChecksum h.bufInRange hv, h.bufA, h.bufN]
  exact byteSum_eq_of_perm h.perm

end

/-! ### The statement -/

/-- Settles O43: RESULT is `byteSum` of the region's bytes, in the first clause for two regions, in the second before and after the permutation. -/
theorem checksumIgnoresByteOrder : Obligations.ChecksumIgnoresByteOrder := by
  refine ⟨fun s t u v _ hs ht hperm hu hv => ?_, fun s i hi hr hw => ?_, fun s hn hr hw hbytes => ?_⟩
  · rw [result_of_execChecksum hs hu, result_of_execChecksum ht hv]
    exact byteSum_eq_of_perm hperm
  · obtain ⟨t, ht, hbuf⟩ : ∃ t, exec i s = .next t ∧ PermutedBuffer s t := by
      cases hi with
      | inl hshuffle => exact hshuffle ▸ execShuffle_permutes_buffer hr hw
      | inr hunshuffle => exact hunshuffle ▸ execUnshuffle_permutes_buffer hr hw
    obtain ⟨u, v, hu, hv, heq⟩ := hbuf.checksum_eq hr hw
    exact ⟨t, u, v, ht, hu, hv, heq⟩
  · have hu := execChecksum_of_written hr (hn ▸ hw)
    refine ⟨_, hu, ?_⟩
    rw [result_of_execChecksum hr hu, hn]
    cases hbytes with
    | inl hones => rw [hones]; rfl
    | inr htwo => rw [htwo]; rfl

end Sys2Proof.Machine
end

section
/-! The Permutation Engine (44_permutation.md). SHUFFLE and UNSHUFFLE are one relation between the region's bytes before and after, read in the two directions; and SEED enters both only through LCG steps, which do not see its bit 31. -/

namespace Sys2Proof.Machine

/-! ### The LCG step -/

/-- R85: clearing bit 31 of a 32-bit word is the remainder modulo 2^31. -/
theorem toNat_and_low31 (w : Word) : (w &&& 0x7FFFFFFF#32).toNat = w.toNat % 2 ^ 31 :=
  Nat.and_two_pow_sub_one_eq_mod w.toNat 31

/-- R85: the remainder modulo 2^32 that wrapping takes is lost again in the one modulo 2^31. -/
theorem lcgNext_eq_wrapping (s : Word) : lcgNext s = (1103515245#32 * s + 12345#32) &&& 0x7FFFFFFF#32 := by
  apply BitVec.eq_of_toNat_eq
  rw [lcgNext_toNat, toNat_and_low31, BitVec.toNat_add, BitVec.toNat_mul]
  simp only [BitVec.toNat_ofNat]
  omega

/-- Settles O44: the unbounded form, the wrapping form, and the four examples by evaluation. -/
theorem lcgStepIsExact : Obligations.LcgStepIsExact :=
  ⟨lcgNext_toNat, lcgNext_eq_wrapping, by decide, by decide, by decide, by decide⟩

/-! ### Bit 31 of the seed -/

/-- The word with bit 31 inverted. -/
def flip31 (w : Word) : Word := w ^^^ 0x80000000#32

theorem flip31_mod (w : Word) : (flip31 w).toNat % 2 ^ 31 = w.toNat % 2 ^ 31 := by
  rw [flip31, BitVec.toNat_xor, Nat.xor_mod_two_pow]
  exact Nat.xor_zero _

/-- The step is a function of the seed modulo 2^31. -/
theorem lcgNext_flip31 (w : Word) : lcgNext (flip31 w) = lcgNext w := by
  have hmod := flip31_mod w
  apply BitVec.eq_of_toNat_eq
  rw [lcgNext_toNat, lcgNext_toNat]
  omega

theorem lcgNext_lt (w : Word) : (lcgNext w).toNat < 2 ^ 31 := by
  rw [lcgNext_toNat]
  exact Nat.mod_lt _ (by decide)

/-- R87: the sequence advances before it takes its first pair. -/
theorem swapSeq_flip31 (n : Nat) (w : Word) : swapSeq n (flip31 w) = swapSeq n w := by
  unfold swapSeq
  cases n - 1 with
  | zero => rfl
  | succ i => rw [swapsFrom, swapsFrom, lcgNext_flip31]

theorem lcgAfter_flip31 {k : Nat} (hk : k ≠ 0) (w : Word) : lcgAfter k (flip31 w) = lcgAfter k w := by
  cases k with
  | zero => contradiction
  | succ k => rw [lcgAfter, lcgAfter, lcgNext_flip31]

/-- The state with SEED replaced. -/
def State.withSeed (s : State) (w : Word) : State := { s with seed := w }

namespace State

@[simp] theorem withSeed_seed (s : State) (w : Word) : (s.withSeed w).seed = w := rfl
@[simp] theorem withSeed_bufA (s : State) (w : Word) : (s.withSeed w).bufA = s.bufA := rfl
@[simp] theorem withSeed_bufN (s : State) (w : Word) : (s.withSeed w).bufN = s.bufN := rfl
@[simp] theorem withSeed_bufInRange (s : State) (w : Word) : (s.withSeed w).bufInRange = s.bufInRange := rfl
@[simp] theorem withSeed_bmem (s : State) (w : Word) : (s.withSeed w).bmem = s.bmem := rfl
@[simp] theorem withSeed_trace (s : State) (w : Word) : (s.withSeed w).trace = s.trace := rfl
@[simp] theorem withSeed_tmp (s : State) (w : Word) : (s.withSeed w).tmp = s.tmp := rfl

end State

/-- How UNSHUFFLE ends once its loops gave the three arrays, or missed an unwritten byte (R89). -/
def State.finishArrays (s : State) : Except Nat Unshuffled → Result
  | .ok u => .next ((s.withScratch u.trace u.tmp).withBmem u.bmem).complete
  | .error x => .fault (.unwrittenRead x)

theorem finishArrays_eq_next {s t : State} {r : Except Nat Unshuffled} :
    s.finishArrays r = .next t ↔ ∃ u, r = .ok u ∧ t = ((s.withScratch u.trace u.tmp).withBmem u.bmem).complete := by
  cases r <;> simp [State.finishArrays, eq_comm]

/-- The checks that both commands make before their loops (R88, R89). -/
def swapChecks (s : State) (loops : Result) : Result :=
  if s.bufN < 2 then .next s.complete
  else if !s.bufInRange then .next (s.cmdError .range)
  else loops

theorem execShuffle_eq_swapChecks (s : State) :
    execShuffle s = swapChecks s ((s.withLcg (lcgAfter (s.bufN - 1) s.seed)).finishBmem
      (Sparse.applySwaps s.bufA (swapSeq s.bufN s.seed) s.bmem)) := rfl

theorem execUnshuffle_eq_swapChecks (s : State) :
    execUnshuffle s = swapChecks s ((s.withLcg (lcgAfter (s.bufN - 1) s.seed)).finishArrays
      (unshuffleArrays s.bufA s.bufN s.seed s.trace s.tmp s.bmem)) := by
  unfold execUnshuffle
  cases unshuffleArrays s.bufA s.bufN s.seed s.trace s.tmp s.bmem <;> rfl

theorem unshuffleArrays_flip31 (a n : Nat) (w : Word) (t : Sparse Nat) (u : Sparse Byte) (m : Memory) :
    unshuffleArrays a n (flip31 w) t u m = unshuffleArrays a n w t u m := by
  rw [unshuffleArrays, swapSeq_flip31, unshuffleArrays]

section
variable {s t : State}

/-- The checks do not look at SEED, so the loops alone matter. -/
theorem swapChecks_withSeed {r r' : Result} {w : Word} (hloops : 2 ≤ s.bufN → r = .next t → r' = .next (t.withSeed w))
    (h : swapChecks s r = .next t) : swapChecks (s.withSeed w) r' = .next (t.withSeed w) := by
  unfold swapChecks at h ⊢
  rw [State.withSeed_bufN, State.withSeed_bufInRange]
  by_cases hshort : s.bufN < 2
  · rw [if_pos hshort] at h ⊢
    cases h
    rfl
  · rw [if_neg hshort] at h ⊢
    cases hr : s.bufInRange <;> rw [hr] at h
    · cases h
      rfl
    · exact hloops (by omega) h

theorem execShuffle_flip31 (h : execShuffle s = .next t) :
    execShuffle (s.withSeed (flip31 s.seed)) = .next (t.withSeed (flip31 s.seed)) := by
  rw [execShuffle_eq_swapChecks] at h ⊢
  refine swapChecks_withSeed (fun hn hloops => ?_) h
  obtain ⟨m, hm, rfl⟩ := finishBmem_eq_next.1 hloops
  refine finishBmem_eq_next.2 ⟨m, ?_, ?_⟩
  · simpa [swapSeq_flip31] using hm
  · rw [State.withSeed_bufN, State.withSeed_seed, lcgAfter_flip31 (by omega)]
    rfl

theorem execUnshuffle_flip31 (h : execUnshuffle s = .next t) :
    execUnshuffle (s.withSeed (flip31 s.seed)) = .next (t.withSeed (flip31 s.seed)) := by
  rw [execUnshuffle_eq_swapChecks] at h ⊢
  refine swapChecks_withSeed (fun hn hloops => ?_) h
  obtain ⟨u, hu, rfl⟩ := finishArrays_eq_next.1 hloops
  refine finishArrays_eq_next.2 ⟨u, ?_, ?_⟩
  · simpa [unshuffleArrays_flip31] using hu
  · rw [State.withSeed_bufN, State.withSeed_seed, lcgAfter_flip31 (by omega)]
    rfl

end

/-- Settles O50: every use of SEED is through LCG steps, which bit 31 does not reach. -/
theorem seedsDifferingInBit31AreEquivalent : Obligations.SeedsDifferingInBit31AreEquivalent := by
  refine ⟨fun w => ⟨lcgNext_flip31 w, lcgNext_lt w⟩, swapSeq_flip31, fun s t i hi h => ?_, by decide, by decide⟩
  obtain rfl | rfl := hi
  · exact execShuffle_flip31 h
  · exact execUnshuffle_flip31 h

/-! ### The swaps as a relation between two regions -/

/-- The region of m' holds at each x the byte that the region of m holds at P(x), P the swap sequence applied to the identity (R90). -/
def SwapImage (a n : Nat) (seed : Word) (m m' : Memory) : Prop :=
  ∀ x, x < n → Sparse.read m' (a + x) = Sparse.read m (a + applySwapsTo id (swapSeq n seed) x)

namespace SwapImage
variable {a n : Nat} {seed : Word} {m m' m₂ m₂' : Memory}

/-- P maps positions of the region to positions of the region, so equal sources have equal images. -/
theorem target_eq (hn : 0 < n) (h : SwapImage a n seed m m') (h₂ : SwapImage a n seed m₂ m₂')
    (hsource : ∀ x, InRegion a n x → Sparse.read m₂ x = Sparse.read m x) :
    ∀ x, InRegion a n x → Sparse.read m₂' x = Sparse.read m' x := by
  intro x hx
  obtain ⟨i, hi, rfl⟩ := exists_add_of_inRegion hx
  have hP : applySwapsTo id (swapSeq n seed) i < n :=
    applySwapsTo_forall (P := (· < n)) (fun p hp => swapSeq_lt hn hp) (fun _ h => h) i hi
  rw [h i hi, h₂ i hi, hsource _ (inRegion_add hP)]

/-- P reaches every position of the region, so equal images have equal sources. -/
theorem source_eq (hn : 0 < n) (h : SwapImage a n seed m m') (h₂ : SwapImage a n seed m₂ m₂')
    (htarget : ∀ x, InRegion a n x → Sparse.read m₂' x = Sparse.read m' x) :
    ∀ x, InRegion a n x → Sparse.read m₂ x = Sparse.read m x := by
  intro x hx
  obtain ⟨k, hk, rfl⟩ := exists_add_of_inRegion hx
  obtain ⟨i, hi, rfl⟩ := applySwapsTo_id_surj (fun p hp => swapSeq_lt hn hp : ∀ p ∈ swapSeq n seed, p.1 < n ∧ p.2 < n) hk
  rw [← h i hi, ← h₂ i hi, htarget _ (inRegion_add hi)]

end SwapImage

/-! ### The two commands as that relation -/

section
variable {s t : State} (hn : 2 ≤ s.bufN) (hr : s.bufInRange = true) (hw : Written s.bmem s.bufA s.bufN)
include hn hr

/-- R88: SHUFFLE leaves the image of the region it began with, and SEED as it was. -/
theorem execShuffle_swapImage (h : execShuffle s = .next t) :
    t.seed = s.seed ∧ SwapImage s.bufA s.bufN s.seed s.bmem t.bmem := by
  obtain ⟨-, hshort⟩ | ⟨-, hout, -⟩ | ⟨-, -, he⟩ := execShuffle_cases s
  · omega
  · cases hr.symm.trans hout
  · rw [he] at h
    obtain ⟨m, hm, rfl⟩ := finishBmem_eq_next.1 h
    exact ⟨rfl, fun x _ => (Sparse.read_applySwaps hm x).trans (applySwapsTo_eq_comp_id _ _ x)⟩

include hw

/-- R89: UNSHUFFLE leaves a region whose image is the one it began with, and SEED as it was. -/
theorem execUnshuffle_swapImage (h : execUnshuffle s = .next t) :
    t.seed = s.seed ∧ SwapImage s.bufA s.bufN s.seed t.bmem s.bmem := by
  obtain ⟨r, hok, -, hread, -⟩ := unshuffleArrays_ok (by omega : 0 < s.bufN) s.seed s.trace s.tmp hw
  obtain ⟨-, hshort⟩ | ⟨-, hout, -⟩ | ⟨-, -, u, hu, he⟩ | ⟨-, -, x, -, he⟩ := execUnshuffle_cases s
  · omega
  · cases hr.symm.trans hout
  · cases hok.symm.trans hu
    cases he.symm.trans h
    exact ⟨rfl, fun x hx => (hread x hx).symm⟩
  · cases he.symm.trans h

end

/-! ### The round trips -/

theorem exec_permutes_buffer {s : State} {i : Instr} (hi : i = .shuffle ∨ i = .unshuffle) (hr : s.bufInRange = true)
    (hw : Written s.bmem s.bufA s.bufN) : ∃ t, exec i s = .next t ∧ PermutedBuffer s t := by
  obtain rfl | rfl := hi
  · exact execShuffle_permutes_buffer hr hw
  · exact execUnshuffle_permutes_buffer hr hw

section
variable {s t v : State}

/-- What the host does outside the buffer leaves it the permuted buffer it was. -/
theorem PermutedBuffer.of_same_bytes (h : PermutedBuffer s t) (hcfg : v.cfg = t.cfg) (haddr : v.bufAddr = t.bufAddr)
    (hlen : v.bufLen = t.bufLen) (hbytes : ∀ x, InRegion s.bufA s.bufN x → Sparse.read v.bmem x = Sparse.read t.bmem x) :
    PermutedBuffer s v := by
  have hA : v.bufA = t.bufA := congrArg BitVec.toNat haddr
  have hN : v.bufN = t.bufN := congrArg BitVec.toNat hlen
  have hregion : regionBytes v.bmem s.bufA s.bufN = regionBytes t.bmem s.bufA s.bufN :=
    List.map_congr_left fun i hi => by rw [hbytes _ (inRegion_add (List.mem_range.1 hi))]
  refine ⟨hA.trans h.bufA, hN.trans h.bufN, ?_, fun i hi => ?_, hregion ▸ h.perm⟩
  · rw [State.bufInRange, hcfg, hA, hN]
    exact h.bufInRange
  · rw [hbytes _ (inRegion_add hi)]
    exact h.written i hi

theorem PermutedBuffer.written_own (h : PermutedBuffer s v) : Written v.bmem v.bufA v.bufN := by
  rw [h.bufA, h.bufN]
  exact h.written

variable (hn : 2 ≤ s.bufN) (hr : s.bufInRange = true) (hv : PermutedBuffer s v) (hseed : v.seed = t.seed)
  (hbytes : ∀ x, InRegion s.bufA s.bufN x → Sparse.read v.bmem x = Sparse.read t.bmem x)
include hn hr hv hseed hbytes

/-- Both images are the region between the two commands, so both sources agree (R90). -/
theorem execUnshuffle_undoes_execShuffle (ht : execShuffle s = .next t) :
    ∃ u, execUnshuffle v = .next u ∧ ∀ x, InRegion s.bufA s.bufN x → Sparse.read u.bmem x = Sparse.read s.bmem x := by
  obtain ⟨hkept, himage⟩ := execShuffle_swapImage hn hr ht
  obtain ⟨u, hu, -⟩ := execUnshuffle_permutes_buffer hv.bufInRange hv.written_own
  obtain ⟨-, himage'⟩ := execUnshuffle_swapImage (hv.bufN ▸ hn) hv.bufInRange hv.written_own hu
  rw [hv.bufA, hv.bufN, hseed, hkept] at himage'
  exact ⟨u, hu, himage.source_eq (by omega) himage' hbytes⟩

/-- Both sources are the region between the two commands, so both images agree (R90). -/
theorem execShuffle_undoes_execUnshuffle (hw : Written s.bmem s.bufA s.bufN) (ht : execUnshuffle s = .next t) :
    ∃ u, execShuffle v = .next u ∧ ∀ x, InRegion s.bufA s.bufN x → Sparse.read u.bmem x = Sparse.read s.bmem x := by
  obtain ⟨hkept, himage⟩ := execUnshuffle_swapImage hn hr hw ht
  obtain ⟨u, hu, -⟩ := execShuffle_permutes_buffer hv.bufInRange hv.written_own
  obtain ⟨-, himage'⟩ := execShuffle_swapImage (hv.bufN ▸ hn) hv.bufInRange hu
  rw [hv.bufA, hv.bufN, hseed, hkept] at himage'
  exact ⟨u, hu, himage.target_eq (by omega) himage' hbytes⟩

end

/-- Settles O49: each command permutes the buffer, the state before the other command still has that buffer, and the other undoes the permutation. -/
theorem shuffleAndUnshuffleAreInverse : Obligations.ShuffleAndUnshuffleAreInverse := by
  intro s i j hij hn hr hw
  obtain ⟨t, ht, hbuf⟩ := exec_permutes_buffer (hij.imp And.left And.left) hr hw
  refine ⟨t, ht, hbuf.perm, hbuf.checksum_eq hr hw, fun s2 hcfg haddr hlen hseed hbytes => ?_⟩
  have hbuf2 : PermutedBuffer s s2 := hbuf.of_same_bytes hcfg haddr hlen hbytes
  obtain ⟨rfl, rfl⟩ | ⟨rfl, rfl⟩ := hij
  · exact execUnshuffle_undoes_execShuffle hn hr hbuf2 hseed hbytes ht
  · exact execShuffle_undoes_execUnshuffle hn hr hbuf2 hseed hbytes hw ht

end Sys2Proof.Machine
end

section
/-! The Entropy Source (45_entropy.md). R96's one idea: an operation ignores POOL when it does the same on a state and on that state with another pool. Every branch of a step tests, reads and stops on other state only, so every operation ignores POOL, and a run with them. -/

namespace Sys2Proof.Machine

/-! ### The draws -/

/-- R31: a supplied value is the draw. -/
theorem State.weakDraw_of_supplied {s : State} {k : Nat} {w : Word} (h : s.weakIn[k]? = some w) : s.weakDraw k = w := by
  rw [State.weakDraw, h, Option.getD_some]

/-- R31: a supplied value is the draw. -/
theorem State.jitterDraw_of_supplied {s : State} {j : Word} {js : List Word} (h : s.jitterIn = j :: js) :
    s.jitterDraw = j := by
  rw [State.jitterDraw, h, List.head?_cons, Option.getD_some]

/-! ### Operations that ignore POOL -/

/-- With any other POOL, the operation gives the same but for POOL. -/
def IgnoresPool (f : State → Result) : Prop := ∀ (s : State) (p : Pool), SameButPool (f s) (f (s.withPool p))

theorem sameButPool_next (t : State) (p : Pool) : SameButPool (.next t) (.next (t.withPool p)) := rfl

theorem sameButPool_fault (x : Fault) : SameButPool (.fault x) (.fault x) := rfl

/-- The three ways two outcomes can agree but for POOL. -/
theorem SameButPool.cases {r r' : Result} (h : SameButPool r r') :
    (∃ t p, r = .next t ∧ r' = .next (t.withPool p)) ∨
    (∃ x, r = .fault x ∧ r' = .fault x) ∨
    (∃ q, r = .refused q ∧ r' = .refused q) := by
  cases r with
  | next t =>
    cases r' with
    | next t' => exact .inl ⟨t, t'.pool, rfl, congrArg _ h⟩
    | _ => exact h.elim
  | fault x =>
    cases r' with
    | fault y => exact .inr (.inl ⟨x, rfl, congrArg _ h.symm⟩)
    | _ => exact h.elim
  | refused q =>
    cases r' with
    | refused q' => exact .inr (.inr ⟨q, rfl, congrArg _ h.symm⟩)
    | _ => exact h.elim

/-- A test that does not look at POOL sends both states down the same branch. -/
theorem SameButPool.ite {c : Prop} [Decidable c] {r r' q q' : Result} (hthen : SameButPool r r') (helse : SameButPool q q') :
    SameButPool (if c then r else q) (if c then r' else q') := by
  split
  · exact hthen
  · exact helse

/-! ### The commands -/

theorem sameButPool_finishBmem (s : State) (p : Pool) (r : Except Nat Memory) :
    SameButPool (s.finishBmem r) ((s.withPool p).finishBmem r) := by
  cases r with
  | ok m => exact sameButPool_next (s.withBmem m).complete p
  | error x => exact sameButPool_fault _

theorem sameButPool_finishArrays (s : State) (p : Pool) (r : Except Nat Unshuffled) :
    SameButPool (s.finishArrays r) ((s.withPool p).finishArrays r) := by
  cases r with
  | ok u => exact sameButPool_next ((s.withScratch u.trace u.tmp).withBmem u.bmem).complete p
  | error x => exact sameButPool_fault _

theorem sameButPool_complete (s : State) (p : Pool) : SameButPool (.next s.complete) (.next (s.withPool p).complete) :=
  sameButPool_next s.complete p

theorem sameButPool_cmdError (s : State) (p : Pool) (c : ErrCode) :
    SameButPool (.next (s.cmdError c)) (.next ((s.withPool p).cmdError c)) :=
  sameButPool_next (s.cmdError c) p

theorem SameButPool.swapChecks {s : State} {p : Pool} {r r' : Result} (h : SameButPool r r') :
    SameButPool (swapChecks s r) (swapChecks (s.withPool p) r') :=
  .ite (sameButPool_complete s p) (.ite (sameButPool_cmdError s p .range) h)

theorem ignoresPool_execMask : IgnoresPool execMask := fun s p =>
  .ite (sameButPool_complete s p) <| .ite (sameButPool_complete s p) <| .ite (sameButPool_cmdError s p .range) <|
    .ite (sameButPool_cmdError s p .range) <| .ite (sameButPool_cmdError s p .overlap) <| sameButPool_finishBmem s p _

theorem ignoresPool_mapBuffer (f : Byte → Byte) : IgnoresPool (mapBuffer f) := fun s p =>
  .ite (sameButPool_complete s p) <| .ite (sameButPool_cmdError s p .range) <| sameButPool_finishBmem s p _

theorem ignoresPool_execChecksum : IgnoresPool execChecksum := fun s p => by
  have hsum : sumLoop (s.withPool p).bmem (s.withPool p).bufN (s.withPool p).bufA 0 = sumLoop s.bmem s.bufN s.bufA 0 := rfl
  refine .ite (sameButPool_next (s.withResult 0).complete p) (.ite (sameButPool_cmdError s p .range) ?_)
  rw [hsum]
  cases sumLoop s.bmem s.bufN s.bufA 0 with
  | ok w => exact sameButPool_next (s.withResult w).complete p
  | error x => exact sameButPool_fault _

theorem ignoresPool_execShuffle : IgnoresPool execShuffle := fun s p =>
  .swapChecks (sameButPool_finishBmem (s.withLcg (lcgAfter (s.bufN - 1) s.seed)) p _)

theorem ignoresPool_execUnshuffle : IgnoresPool execUnshuffle := fun s p => by
  rw [execUnshuffle_eq_swapChecks, execUnshuffle_eq_swapChecks]
  exact .swapChecks (sameButPool_finishArrays (s.withLcg (lcgAfter (s.bufN - 1) s.seed)) p _)

theorem ignoresPool_execEntFill : IgnoresPool execEntFill := fun s p =>
  .ite (sameButPool_complete s p) <| .ite (sameButPool_cmdError s p .range) <| sameButPool_finishBmem (s.takeWeak s.bufN) p _

/-- R96: ENT_SEED alone reads POOL, and only to compute the new POOL. -/
theorem ignoresPool_execEntSeed : IgnoresPool execEntSeed := fun s p =>
  sameButPool_next s.takeJitter.complete (Config.poolMix p s.seed s.jitterDraw)

theorem ignoresPool_exec (i : Instr) : IgnoresPool (exec i) := by
  cases i with
  | nop => exact sameButPool_complete
  | mask => exact ignoresPool_execMask
  | scramble => exact fun s => ignoresPool_mapBuffer (scrambleByte s.cfg.scrambleForm) s
  | deobfuscate => exact ignoresPool_mapBuffer deobfuscateByte
  | checksum => exact ignoresPool_execChecksum
  | shuffle => exact ignoresPool_execShuffle
  | unshuffle => exact ignoresPool_execUnshuffle
  | entDraw => exact fun s => sameButPool_next ((s.takeWeak 1).withResult (s.weakDraw 0)).complete
  | entFill => exact ignoresPool_execEntFill
  | entSeed => exact ignoresPool_execEntSeed

theorem ignoresPool_engineStep : IgnoresPool engineStep := fun s p => by
  unfold engineStep
  rw [State.withPool_curCmd]
  cases decode s.curCmd with
  | ok i => exact ignoresPool_exec i s p
  | error e => exact sameButPool_cmdError s p .illegal

theorem ignoresPool_engineMove : IgnoresPool engineMove := fun s => ignoresPool_engineStep s.engineTurn

/-! ### The host's accesses -/

theorem regWrite_withPool (s : State) (p : Pool) (off : Nat) (w : Word) :
    regWrite (s.withPool p) off w = (regWrite s off w).withPool p := by
  unfold regWrite
  cases regAt off with
  | none => rfl
  | some r => cases r <;> rfl

theorem performReg_withPool (s : State) (p : Pool) (a : Access) :
    (s.withPool p).performReg a = (s.performReg a).withPool p := by
  unfold State.performReg
  cases a.kind with
  | read => exact congrArg (s.withPool p).answer (regRead_withPool s p a.addr)
  | write w => exact regWrite_withPool s p a.addr w

theorem ignoresPool_performBmem (a : Access) : IgnoresPool (·.performBmem a) := fun s p => by
  simp only [State.performBmem, State.withPool_bmem]
  cases a.kind with
  | read =>
    cases memRead s.bmem a.addr a.width.bytes with
    | ok w => exact sameButPool_next (s.answer w) p
    | error x => exact sameButPool_fault _
  | write w => exact sameButPool_next (s.withBmem (memWrite s.bmem a.addr a.width.bytes w)) p

theorem ignoresPool_perform (a : Access) : IgnoresPool (·.perform a) := fun s p => by
  refine .ite ?_ (sameButPool_fault _)
  cases a.space with
  | reg =>
    rw [performReg_withPool]
    exact sameButPool_next (s.performReg a) p
  | bmem => exact ignoresPool_performBmem a s p

/-! ### Steps and runs -/

theorem ignoresPool_agentStep : IgnoresPool agentStep := fun s p => by
  have hturn : (s.withPool p).nextAgent = s.nextAgent := rfl
  unfold agentStep
  rw [State.withPool_pending]
  cases s.pending with
  | nil => exact .ite (ignoresPool_engineMove s p) (sameButPool_next s p)
  | cons a rest =>
    refine .ite (ignoresPool_engineMove s p) (.ite ?_ (ignoresPool_perform a s.dequeue p))
    rw [hturn]
    cases s.nextAgent with
    | host => exact ignoresPool_perform a s.hostTurn.dequeue p
    | engine => exact ignoresPool_engineMove s p

/-- R111: POOL takes its reset value, whatever it was. -/
theorem release_withPool (s : State) (p : Pool) : (s.withPool p).release = s.release := by
  have hturn : (s.withPool p).turnAfterReset = s.turnAfterReset.withPool p := by
    unfold State.turnAfterReset
    rw [State.withPool_busy]
    split <;> rfl
  rw [State.release, hturn]
  rfl

theorem ignoresPool_step : IgnoresPool step := fun s p => by
  refine .ite ?_ (ignoresPool_agentStep s p)
  rw [release_withPool]
  exact sameButPool_next s.release s.release.pool

theorem ignoresPool_runSteps (k : Nat) : IgnoresPool (runSteps k) := by
  induction k with
  | zero => exact sameButPool_next
  | succ k ih =>
    intro s p
    obtain ⟨t, q, hs, hp⟩ | ⟨x, hs, hp⟩ | ⟨q, hs, hp⟩ := (ignoresPool_step s p).cases
    · rw [runSteps_succ_of_next k hs, runSteps_succ_of_next k hp]
      exact ih t q
    · rw [runSteps_succ_of_fault k hs, runSteps_succ_of_fault k hp]
      exact sameButPool_fault x
    · rw [runSteps_succ_of_refused k hs, runSteps_succ_of_refused k hp]
      rfl

/-! ### The statements -/

/-- Settles O55: by induction on the number of steps, each of which ignores POOL. -/
theorem poolIsUnobservable : Obligations.PoolIsUnobservable := ignoresPool_runSteps

/-- Settles O51: ENT_DRAW has no check, so it takes its draw and completes. -/
theorem entDrawWritesTheDraw : Obligations.EntDrawWritesTheDraw :=
  ⟨rfl, fun _ => rfl, fun _ _ _ h => State.weakDraw_of_supplied (by rw [h, List.getElem?_cons_zero])⟩

/-- Settles O54: ENT_SEED has no check, so it takes its draw, mixes and completes. -/
theorem entSeedMixesThePool : Obligations.EntSeedMixesThePool :=
  ⟨rfl, fun _ => rfl, fun _ _ _ => State.jitterDraw_of_supplied⟩

end Sys2Proof.Machine
end

section
/-! The reset input (70_reset_and_hazards.md): which commands have an output region, and what a release that aborts one leaves in BMEM; the statement of R112. -/

namespace Sys2Proof.Machine

/-! ### The commands with an output region -/

/-- The commands whose output region is the buffer region (R112). -/
def bufferWriters : List Instr := [.mask, .scramble, .deobfuscate, .shuffle, .unshuffle, .entFill]

theorem writesBuffer_iff_decode {w : Word} : writesBuffer w = true ↔ ∃ i ∈ bufferWriters, decode w = .ok i := by
  unfold writesBuffer
  cases decode w with
  | error _ => simp
  | ok i => cases i <;> simp [bufferWriters]

/-- A word selects a command only as that command's own word, so an illegal word has no output region. -/
theorem writesBuffer_iff {w : Word} : writesBuffer w = true ↔ ∃ i ∈ bufferWriters, w = encode i := by
  simp only [writesBuffer_iff_decode, decode_eq_ok_iff]

theorem writesBuffer_encode {i : Instr} (hi : i ∈ bufferWriters) : writesBuffer (encode i) = true :=
  writesBuffer_iff.2 ⟨i, hi, rfl⟩

theorem writesBuffer_eq_false {w : Word} (h : ∀ i ∈ bufferWriters, w ≠ encode i) : writesBuffer w = false :=
  Bool.eq_false_iff.2 fun hw =>
    let ⟨i, hi, hwi⟩ := writesBuffer_iff.1 hw
    h i hi hwi

/-! ### The forgotten region -/

section
variable {m : Memory} {a n x : Nat}

theorem read_forget_inside (hx : InRegion a n x) : Sparse.read (Sparse.forget m a n) x = none :=
  (Sparse.read_forget m a n x).trans (if_pos hx)

theorem read_forget_outside (hx : ¬ InRegion a n x) : Sparse.read (Sparse.forget m a n) x = Sparse.read m x :=
  (Sparse.read_forget m a n x).trans (if_neg hx)

end

/-! ### The release -/

/-- R110: while `rst` is asserted the release is the only step. -/
theorem step_of_rst {s : State} (hr : s.rst = true) : step s = .next s.release := if_pos hr

section
variable {s : State} (hb : s.busy = true)
include hb

/-- R112: the abort of a command with an output region forgets that region. -/
theorem bmemAfterReset_of_writer (hw : writesBuffer s.curCmd = true) :
    s.bmemAfterReset = Sparse.forget s.bmem s.bufA s.bufN := by
  rw [State.bmemAfterReset, if_pos hb, if_pos hw]

/-- R112: a command without an output region leaves BMEM as it was. -/
theorem bmemAfterReset_of_nonWriter (hw : writesBuffer s.curCmd = false) : s.bmemAfterReset = s.bmem := by
  rw [State.bmemAfterReset, if_pos hb, hw]
  rfl

end

/-! ### The statement -/

/-- Settles O3: the step is the release, with the abort's head start used up; its BMEM is split on whether CUR_CMD selects a command with an output region. -/
theorem releaseWhileBusyAbortsCommand : Obligations.ReleaseWhileBusyAbortsCommand := by
  intro s hr hb
  refine ⟨s.bmemAfterReset, ?_, fun i hi hcmd x hx => ?_, fun i hi hcmd x hx => ?_, fun hcmd x => ?_⟩
  · rw [step_of_rst hr, State.release, State.turnAfterReset_of_busy hb]
    rfl
  · rw [bmemAfterReset_of_writer hb (hcmd ▸ writesBuffer_encode hi), read_forget_inside hx]
  · rw [bmemAfterReset_of_writer hb (hcmd ▸ writesBuffer_encode hi), read_forget_outside hx]
  · rw [bmemAfterReset_of_nonWriter hb (writesBuffer_eq_false hcmd)]

end Sys2Proof.Machine
end

section
/-! What a command can leave behind. Every store of a command goes through a loop of writes at entries of the buffer region, so one relation per command says all that the next state can differ in; the frame of 30_encoding.md, the stores' bound of 20_memory.md and the invariant are read off it. -/

namespace Sys2Proof.Machine

/-! ### Entries and reads -/

namespace Sparse

variable {α : Type}

theorem read_of_mem {m : Sparse α} (hm : wf m) {c : Nat × α} (hc : c ∈ m) : read m c.1 = some c.2 := by
  induction m with
  | nil => cases hc
  | cons d m ih =>
    obtain ⟨hd, hm⟩ := List.pairwise_cons.1 hm
    obtain rfl | hc := List.mem_cons.1 hc
    · exact if_pos rfl
    · have hlt := hd c hc
      exact (if_neg (by omega)).trans (ih hm hc)

/-- What is true of every entry that can be read is true of every entry listed. -/
theorem forall_mem_of_read {m : Sparse α} (hm : wf m) {P : Nat × α → Prop} (h : ∀ x v, read m x = some v → P (x, v)) :
    ∀ c ∈ m, P c :=
  fun c hc => h c.1 c.2 (read_of_mem hm hc)

/-- No iteration makes an entry unwritten, so the one where a store loop stops lacked an entry from the start. -/
theorem storeLoop_error_unwritten {body : Sparse α → Nat → Except Nat (Nat × α)} {n e : Nat} {m : Sparse α}
    (h : storeLoop body n 0 m = .error e) :
    ∃ i m', i < n ∧ body m' i = .error e ∧ ∀ x, read m' x = none → read m x = none := by
  obtain ⟨i, m', -, hi, hnone, hbody⟩ := storeLoop_error (P := fun _ m' => ∀ x, read m' x = none → read m x = none)
    (fun m' i k v _ _ hm' _ x hx => by
      rw [read_write] at hx
      split at hx
      · cases hx
      · exact hm' x hx)
    (fun _ hx => hx) h
  exact ⟨i, m', by omega, hbody, hnone⟩

/-- A swap writes only entries that it has read. -/
theorem swap_read_eq_none {base i j : Nat} {m m' : Sparse α} (h : swap base m i j = .ok m') {x : Nat} :
    read m' x = none ↔ read m x = none := by
  obtain ⟨v, w, hv, hw, rfl⟩ := swap_eq_ok.1 h
  rw [read_write, read_write]
  split
  · rename_i hj
    simp [← hj, hw]
  · split
    · rename_i hi
      simp [← hi, hv]
    · rfl

theorem applySwaps_error_unwritten {base e : Nat} {l : List (Nat × Nat)} {m : Sparse α}
    (h : applySwaps base l m = .error e) :
    read m e = none ∧ ∃ p ∈ l, e = base + p.1 ∨ e = base + p.2 := by
  obtain ⟨p, hp, m', hm', hswap⟩ := applySwaps_error (P := fun m' => ∀ x, read m' x = none ↔ read m x = none)
    (fun p _ m1 m2 h1 h2 x => (swap_read_eq_none h2).trans (h1 x)) (fun _ => Iff.rfl) h
  obtain ⟨hnone, he⟩ := swap_eq_error hswap
  exact ⟨(hm' e).1 hnone, p, hp, he⟩

end Sparse

/-! ### The buffer after a command -/

/-- The command's checks have passed, and m is BMEM after stores into the buffer region only. -/
structure StoresBuffer (s : State) (m : Memory) : Prop where
  bufN_ne_zero : s.bufN ≠ 0
  bufInRange : s.bufInRange = true
  wf : Memory.wf s.bmem → Memory.wf m
  frame : ∀ x, ¬ InRegion s.bufA s.bufN x → Sparse.read m x = Sparse.read s.bmem x

theorem lt_bmemSize_of_bufInRange {s : State} (h : s.bufInRange = true) {x : Nat} (hx : InRegion s.bufA s.bufN x) :
    x < s.cfg.bmemSize := by
  obtain ⟨hlo, hhi⟩ := hx
  have := s.bufInRange_iff.1 h
  omega

theorem bufN_le_bmemSize {s : State} (h : s.bufInRange = true) : s.bufN ≤ s.cfg.bmemSize := by
  have := s.bufInRange_iff.1 h
  omega

/-- A store loop whose iteration i stores at a + i. -/
theorem storesBuffer_of_storeLoop {s : State} {m : Memory} {body : Memory → Nat → Except Nat (Nat × Byte)}
    (hn : s.bufN ≠ 0) (hr : s.bufInRange = true) (ht : ∀ m i k v, body m i = .ok (k, v) → k = s.bufA + i)
    (h : Sparse.storeLoop body s.bufN 0 s.bmem = .ok m) : StoresBuffer s m where
  bufN_ne_zero := hn
  bufInRange := hr
  wf hm := Sparse.storeLoop_wf hm h
  frame x hx := Sparse.storeLoop_read_of_ne
    (fun m i k v _ hi hb => by
      rintro rfl
      exact hx (ht m i k v hb ▸ inRegion_add (by omega))) h

theorem maskByte_target {a ka kl : Nat} (m : Memory) (i k : Nat) (v : Byte) (h : maskByte a ka kl m i = .ok (k, v)) :
    k = a + i := by
  obtain ⟨-, -, -, -, hk, -⟩ := maskByte_eq_ok.1 h
  exact hk

theorem mapByte_target {f : Byte → Byte} {a : Nat} (m : Memory) (i k : Nat) (v : Byte) (h : mapByte f a m i = .ok (k, v)) :
    k = a + i := by
  obtain ⟨-, -, hk, -⟩ := mapByte_eq_ok.1 h
  exact hk

theorem fillByte_target {a : Nat} {draw : Nat → Word} (m : Memory) (i k : Nat) (v : Byte)
    (h : fillByte a draw m i = .ok (k, v)) : k = a + i := by
  cases h
  rfl

theorem copyBackByte_target {a : Nat} {u : Sparse Byte} (m : Memory) (i k : Nat) (v : Byte)
    (h : copyBackByte a u m i = .ok (k, v)) : k = a + i := by
  unfold copyBackByte at h
  split at h <;> cases h
  rfl

theorem storesBuffer_of_applySwaps {s : State} {m : Memory} {seed : Word} (hn : 2 ≤ s.bufN) (hr : s.bufInRange = true)
    (h : Sparse.applySwaps s.bufA (swapSeq s.bufN seed) s.bmem = .ok m) : StoresBuffer s m where
  bufN_ne_zero := by omega
  bufInRange := hr
  wf hm := Sparse.applySwaps_wf hm h
  frame _ hx := Sparse.applySwaps_read_outside (fun _ hp => swapSeq_lt (by omega) hp) h hx

/-! ### UNSHUFFLE's arrays -/

theorem unshuffleArrays_eq_ok {a n : Nat} {seed : Word} {t : Sparse Nat} {u : Sparse Byte} {m : Memory} {r : Unshuffled}
    (h : unshuffleArrays a n seed t u m = .ok r) :
    ∃ t1, Sparse.storeLoop identityEntry n 0 t = .ok t1 ∧ Sparse.applySwaps 0 (swapSeq n seed) t1 = .ok r.trace ∧
      Sparse.storeLoop (scatterByte a r.trace m) n 0 u = .ok r.tmp ∧
      Sparse.storeLoop (copyBackByte a r.tmp) n 0 m = .ok r.bmem := by
  unfold unshuffleArrays at h
  split at h
  · cases h
  rename_i t1 h1
  split at h
  · cases h
  rename_i t2 h2
  split at h
  · cases h
  rename_i u2 h3
  split at h <;> cases h
  rename_i m2 h4
  exact ⟨t1, h1, h2, h3, h4⟩

/-- TRACE and TMP after UNSHUFFLE: indices below BUF_LEN, in TRACE entries below it too, beside what was listed before. -/
structure StoresScratch (s : State) (t : Sparse Nat) (u : Sparse Byte) : Prop where
  traceWf : Sparse.wf s.trace → Sparse.wf t
  traceIn : ∀ i k, Sparse.read t i = some k → (i < s.bufN ∧ k < s.bufN) ∨ Sparse.read s.trace i = some k
  tmpWf : Sparse.wf s.tmp → Sparse.wf u
  tmpIn : ∀ i b, Sparse.read u i = some b → i < s.bufN ∨ Sparse.read s.tmp i = some b

section
variable {s : State} {r : Unshuffled} (hn : 2 ≤ s.bufN)
  (h : unshuffleArrays s.bufA s.bufN s.seed s.trace s.tmp s.bmem = .ok r)
include hn h

theorem storesBuffer_of_unshuffleArrays (hr : s.bufInRange = true) : StoresBuffer s r.bmem := by
  obtain ⟨-, -, -, -, hcopy⟩ := unshuffleArrays_eq_ok h
  exact storesBuffer_of_storeLoop (by omega) hr copyBackByte_target hcopy

/-- TRACE holds a permutation of the positions before TMP is written through it (R89). -/
theorem storesScratch_of_unshuffleArrays : StoresScratch s r.trace r.tmp := by
  obtain ⟨t1, hid, hswaps, hscatter, -⟩ := unshuffleArrays_eq_ok h
  obtain ⟨t1', t, hid', hswaps', hin, hout⟩ := trace_ok (by omega : 0 < s.bufN) s.seed s.trace
  cases hid.symm.trans hid'
  cases hswaps.symm.trans hswaps'
  have hP : ∀ i, i < s.bufN → applySwapsTo id (swapSeq s.bufN s.seed) i < s.bufN :=
    applySwapsTo_forall (P := (· < s.bufN)) (fun p hp => swapSeq_lt (by omega) hp) fun _ hi => hi
  have htrace : ∀ i k, Sparse.read r.trace i = some k → (i < s.bufN ∧ k < s.bufN) ∨ Sparse.read s.trace i = some k := by
    intro i k hk
    by_cases hi : i < s.bufN
    · cases (hin i hi).symm.trans hk
      exact .inl ⟨hi, hP i hi⟩
    · exact .inr ((hout i (by omega)).symm.trans hk)
  refine ⟨fun hw => Sparse.applySwaps_wf (Sparse.storeLoop_wf hw hid) hswaps, htrace,
    fun hw => Sparse.storeLoop_wf hw hscatter, fun i b hb => ?_⟩
  by_cases hi : i < s.bufN
  · exact .inl hi
  · refine .inr ((Sparse.storeLoop_read_of_ne (fun _ j k v _ hj hbody => ?_) hscatter).symm.trans hb)
    have hk := (scatterByte_eq_ok.1 hbody).1
    cases (hin j (by omega)).symm.trans hk
    have := hP j (by omega)
    omega

end

/-! ### The next state of each command -/

/-- The states t that command i can leave from s. -/
inductive CommandNext (s : State) : Instr → State → Prop where
  /-- R69 -/
  | error (i : Instr) {c : ErrCode} (hc : c ≠ .none) : CommandNext s i (s.cmdError c)
  /-- NOP, and the no-op of a command with an empty region -/
  | noop (i : Instr) : CommandNext s i s.complete
  | mapped {i : Instr} {m : Memory} (hi : i = .mask ∨ i = .scramble ∨ i = .deobfuscate) (hm : StoresBuffer s m) :
      CommandNext s i (s.withBmem m).complete
  | summed (w : Word) : CommandNext s .checksum (s.withResult w).complete
  | shuffled {m : Memory} (hn : 2 ≤ s.bufN) (hm : StoresBuffer s m) :
      CommandNext s .shuffle ((s.withLcg (lcgAfter (s.bufN - 1) s.seed)).withBmem m).complete
  | unshuffled {m : Memory} {t : Sparse Nat} {u : Sparse Byte} (hn : 2 ≤ s.bufN) (hm : StoresBuffer s m)
      (htu : StoresScratch s t u) :
      CommandNext s .unshuffle (((s.withLcg (lcgAfter (s.bufN - 1) s.seed)).withScratch t u).withBmem m).complete
  | drawn (w : Word) : CommandNext s .entDraw ((s.takeWeak 1).withResult w).complete
  | filled {m : Memory} (hm : StoresBuffer s m) : CommandNext s .entFill ((s.takeWeak s.bufN).withBmem m).complete
  | seeded (p : Pool) : CommandNext s .entSeed (s.takeJitter.withPool p).complete

theorem commandNext_of_execMask {s t : State} (h : execMask s = .next t) : CommandNext s .mask t := by
  obtain ⟨he, -⟩ | ⟨-, -, he, -⟩ | ⟨-, -, -, -, -, he⟩ | ⟨-, hn, hr, -, -, he⟩ := execMask_cases s <;> rw [he] at h
  · cases h; exact .noop _
  · cases h; exact .error _ (by decide)
  · cases h; exact .error _ (by decide)
  · obtain ⟨m, hm, rfl⟩ := finishBmem_eq_next.1 h
    exact .mapped (.inl rfl) (storesBuffer_of_storeLoop hn hr maskByte_target hm)

theorem commandNext_of_mapBuffer {f : Byte → Byte} {s t : State} {i : Instr} (hi : i = .scramble ∨ i = .deobfuscate)
    (h : mapBuffer f s = .next t) : CommandNext s i t := by
  obtain ⟨he, -⟩ | ⟨-, -, he⟩ | ⟨hn, hr, he⟩ := mapBuffer_cases f s <;> rw [he] at h
  · cases h; exact .noop _
  · cases h; exact .error _ (by decide)
  · obtain ⟨m, hm, rfl⟩ := finishBmem_eq_next.1 h
    exact .mapped (.inr hi) (storesBuffer_of_storeLoop hn hr mapByte_target hm)

theorem commandNext_of_execChecksum {s t : State} (h : execChecksum s = .next t) : CommandNext s .checksum t := by
  obtain ⟨he, -⟩ | ⟨-, -, he⟩ | ⟨-, -, w, -, he⟩ | ⟨-, -, x, -, he⟩ := execChecksum_cases s <;> rw [he] at h <;> cases h
  · exact .summed 0
  · exact .error _ (by decide)
  · exact .summed w

theorem commandNext_of_execShuffle {s t : State} (h : execShuffle s = .next t) : CommandNext s .shuffle t := by
  obtain ⟨he, -⟩ | ⟨-, -, he⟩ | ⟨hn, hr, he⟩ := execShuffle_cases s <;> rw [he] at h
  · cases h; exact .noop _
  · cases h; exact .error _ (by decide)
  · obtain ⟨m, hm, rfl⟩ := finishBmem_eq_next.1 h
    exact .shuffled hn (storesBuffer_of_applySwaps hn hr hm)

theorem commandNext_of_execUnshuffle {s t : State} (h : execUnshuffle s = .next t) : CommandNext s .unshuffle t := by
  obtain ⟨he, -⟩ | ⟨-, -, he⟩ | ⟨hn, hr, u, hu, he⟩ | ⟨-, -, x, -, he⟩ := execUnshuffle_cases s <;> rw [he] at h <;> cases h
  · exact .noop _
  · exact .error _ (by decide)
  · exact .unshuffled hn (storesBuffer_of_unshuffleArrays hn hu hr) (storesScratch_of_unshuffleArrays hn hu)

theorem commandNext_of_execEntFill {s t : State} (h : execEntFill s = .next t) : CommandNext s .entFill t := by
  obtain ⟨he, -⟩ | ⟨-, -, he⟩ | ⟨hn, hr, he⟩ := execEntFill_cases s <;> rw [he] at h
  · cases h; exact .noop _
  · cases h; exact .error _ (by decide)
  · obtain ⟨m, hm, rfl⟩ := finishBmem_eq_next.1 h
    exact .filled (storesBuffer_of_storeLoop hn hr fillByte_target hm)

theorem commandNext_of_exec {i : Instr} {s t : State} (h : exec i s = .next t) : CommandNext s i t := by
  cases i with
  | nop => cases h; exact .noop _
  | mask => exact commandNext_of_execMask h
  | scramble => exact commandNext_of_mapBuffer (.inl rfl) h
  | deobfuscate => exact commandNext_of_mapBuffer (.inr rfl) h
  | checksum => exact commandNext_of_execChecksum h
  | shuffle => exact commandNext_of_execShuffle h
  | unshuffle => exact commandNext_of_execUnshuffle h
  | entDraw => cases h; exact .drawn _
  | entFill => exact commandNext_of_execEntFill h
  | entSeed => cases h; exact .seeded _

/-! ### The invariant -/

namespace BlockInv
variable {s t : State}

theorem withBmem (h : BlockInv s) {m : Memory} (hwf : Memory.wf m) (hin : ∀ c ∈ m, c.1 < s.cfg.bmemSize) :
    BlockInv (s.withBmem m) :=
  { h with bmemWf := hwf, bmemIn := hin }

theorem complete (h : BlockInv s) : BlockInv s.complete :=
  { h with busyClear := nofun }

theorem cmdError (h : BlockInv s) {c : ErrCode} (hc : c ≠ .none) : BlockInv (s.cmdError c) :=
  { h with busyClear := nofun, errIff := iff_of_true rfl hc }

theorem withLcg (h : BlockInv s) {w : Word} (hw : w.toNat < 2 ^ 31) : BlockInv (s.withLcg w) :=
  { h with lcgLt := hw }

theorem withResult (h : BlockInv s) (w : Word) : BlockInv (s.withResult w) := { h with }

theorem withPool (h : BlockInv s) (p : Pool) : BlockInv (s.withPool p) := { h with }

theorem takeWeak (h : BlockInv s) (n : Nat) : BlockInv (s.takeWeak n) := { h with }

theorem takeJitter (h : BlockInv s) : BlockInv s.takeJitter := { h with }

theorem hostTurn (h : BlockInv s) : BlockInv s.hostTurn := { h with }

theorem engineTurn (h : BlockInv s) : BlockInv s.engineTurn := { h with }

theorem dequeue (h : BlockInv s) : BlockInv s.dequeue := { h with }

theorem answer (h : BlockInv s) (w : Word) : BlockInv (s.answer w) := { h with }

/-- Stores into the buffer region, which is in range, add no index past BMEM_SIZE. -/
theorem withBmem_of_storesBuffer (h : BlockInv s) {m : Memory} (hm : StoresBuffer s m) : BlockInv (s.withBmem m) := by
  have hwf : Memory.wf m := hm.wf h.bmemWf
  refine h.withBmem hwf (Sparse.forall_mem_of_read hwf fun x v hx => ?_)
  by_cases hreg : InRegion s.bufA s.bufN x
  · exact lt_bmemSize_of_bufInRange hm.bufInRange hreg
  · exact h.bmemIn _ (Sparse.mem_of_read ((hm.frame x hreg).symm.trans hx))

/-- BUF_LEN is at most BMEM_SIZE once the range check has passed, so UNSHUFFLE's positions are below BMEM_SIZE. -/
theorem withScratch_of_storesScratch (h : BlockInv s) {t : Sparse Nat} {u : Sparse Byte} (hr : s.bufInRange = true)
    (htu : StoresScratch s t u) : BlockInv (s.withScratch t u) := by
  have hle := bufN_le_bmemSize hr
  have ht := htu.traceWf h.traceWf
  have hu := htu.tmpWf h.tmpWf
  refine { h with
    traceWf := ht, tmpWf := hu
    traceIn := Sparse.forall_mem_of_read ht fun i k hk => ?_
    tmpIn := Sparse.forall_mem_of_read hu fun i b hb => ?_ }
  · obtain ⟨hi, hk⟩ | hold := htu.traceIn i k hk
    · exact ⟨hi.trans_le hle, hk.trans_le hle⟩
    · exact h.traceIn _ (Sparse.mem_of_read hold)
  · obtain hi | hold := htu.tmpIn i b hb
    · exact hi.trans_le hle
    · exact h.tmpIn _ (Sparse.mem_of_read hold)

theorem of_commandNext {i : Instr} (h : BlockInv s) (hnext : CommandNext s i t) : BlockInv t := by
  cases hnext with
  | error _ hc => exact h.cmdError hc
  | noop => exact h.complete
  | mapped _ hm => exact (h.withBmem_of_storesBuffer hm).complete
  | summed w => exact (h.withResult w).complete
  | shuffled hn hm => exact ((h.withBmem_of_storesBuffer hm).withLcg (lcgAfter_lt s.seed (by omega))).complete
  | unshuffled hn hm htu =>
    have hscratch := h.withScratch_of_storesScratch hm.bufInRange htu
    exact ((hscratch.withBmem_of_storesBuffer ⟨hm.bufN_ne_zero, hm.bufInRange, hm.wf, hm.frame⟩).withLcg
      (lcgAfter_lt s.seed (by omega))).complete
  | drawn w => exact ((h.takeWeak 1).withResult w).complete
  | filled hm => exact ((h.withBmem_of_storesBuffer hm).takeWeak s.bufN).complete
  | seeded p => exact (h.takeJitter.withPool p).complete

theorem of_engineStep (h : BlockInv s) (hstep : engineStep s = .next t) : BlockInv t := by
  obtain ⟨i, -, he⟩ | ⟨-, -, he⟩ := engineStep_cases s <;> rw [he] at hstep
  · exact h.of_commandNext (commandNext_of_exec hstep)
  · cases hstep
    exact h.cmdError (by decide)

/-! #### The host's accesses -/

theorem accept (h : BlockInv s) (w : Word) : BlockInv (s.accept w) :=
  { h with busyClear := fun _ => ⟨rfl, rfl, rfl⟩, errIff := iff_of_false nofun (· rfl) }

theorem writeStatus (h : BlockInv s) (w : Word) : BlockInv (s.writeStatus w) := by
  refine { h with busyClear := fun hb => ?_, errIff := ?_ }
  · obtain ⟨hd, he, hc⟩ := h.busyClear hb
    simp [hd, he, hc]
  · rw [State.writeStatus_err, State.writeStatus_errCode]
    split
    · exact iff_of_false nofun (· rfl)
    · exact h.errIff

theorem regWrite (h : BlockInv s) (off : Nat) (w : Word) : BlockInv (regWrite s off w) := by
  obtain he | he | he | he | he | he | he | he | he := regWrite_cases s off w <;> rw [he]
  · exact h
  · exact h.accept w
  · exact h.writeStatus w
  all_goals exact { h with }

theorem memWrite (h : BlockInv s) {a n : Nat} (ha : a + n ≤ s.cfg.bmemSize) (w : Word) :
    BlockInv (s.withBmem (memWrite s.bmem a n w)) := by
  refine h.withBmem (memWrite_wf a n w h.bmemWf) fun c hc => ?_
  obtain hold | ⟨-, hlt⟩ := mem_memWrite hc
  · exact h.bmemIn c hold
  · omega

theorem of_perform (h : BlockInv s) {a : Access} (hp : s.perform a = .next t) : BlockInv t := by
  obtain ⟨-, he⟩ | ⟨-, -, -, he⟩ | ⟨w, -, -, -, he⟩ | ⟨w, -, -, -, -, he⟩ | ⟨x, -, -, -, -, he⟩ | ⟨w, hl, hsp, -, he⟩ :=
    perform_cases s a <;> cases he.symm.trans hp
  · exact h.answer _
  · exact h.regWrite a.addr w
  · exact h.answer w
  · refine h.memWrite ?_ w
    simp only [Access.legal, hsp, Bool.and_eq_true, decide_eq_true_eq] at hl
    exact hl.2

/-! #### Reset -/

theorem resetWith {c : Config} (hc : c.wellFormed = true) : BlockInv (State.resetWith c) where
  cfgOk := hc
  bmemWf := .nil
  bmemIn := nofun
  busyClear := nofun
  errIff := iff_of_false nofun (· rfl)
  lcgLt := show (0#32).toNat < 2 ^ 31 by decide
  traceWf := .nil
  traceIn := nofun
  tmpWf := .nil
  tmpIn := nofun

/-- R111, R112: of BMEM the release keeps a part at most. -/
theorem release (h : BlockInv s) : BlockInv s.release := by
  have hbmem : Memory.wf s.bmemAfterReset ∧ ∀ c ∈ s.bmemAfterReset, c.1 < s.cfg.bmemSize := by
    unfold State.bmemAfterReset
    split
    · split
      · exact ⟨Sparse.wf_forget _ _ h.bmemWf, fun c hc => h.bmemIn c (Sparse.mem_of_mem_forget hc)⟩
      · exact ⟨h.bmemWf, h.bmemIn⟩
    · exact ⟨.nil, nofun⟩
  exact { resetWith h.cfgOk with bmemWf := hbmem.1, bmemIn := hbmem.2 }

theorem of_step (h : BlockInv s) (hstep : step s = .next t) : BlockInv t := by
  obtain ⟨-, he⟩ | ⟨-, -, -, he⟩ | ⟨-, -, -, he⟩ | ⟨a, rest, -, -, -, -, he⟩ | ⟨a, rest, -, -, -, -, -, he⟩ |
    ⟨a, rest, -, -, -, -, -, he⟩ | ⟨a, rest, -, -, -, he⟩ := step_cases s <;> rw [he] at hstep
  · cases hstep; exact h.release
  · exact h.engineTurn.of_engineStep hstep
  · cases hstep; exact h
  · exact h.engineTurn.of_engineStep hstep
  · exact h.engineTurn.of_engineStep hstep
  · exact h.hostTurn.dequeue.of_perform hstep
  · exact h.dequeue.of_perform hstep

end BlockInv

/-- Settles O57: a step is the release, an engine's step, idleness or one host access, and each keeps the invariant. -/
theorem stepKeepsInvariant : Obligations.StepKeepsInvariant := fun _ _ hinv hstep => hinv.of_step hstep

/-- Settles O56: the reset state lists nothing, so only the configuration has anything to meet. -/
theorem resetSatisfiesInvariant : Obligations.ResetSatisfiesInvariant :=
  ⟨.resetWith State.default_wellFormed, fun _ => .resetWith⟩

/-! ### The frame of the commands -/

/-- Settles O29: read off the next states of each command. -/
theorem commandsWriteOnlyTheirOwnState : Obligations.CommandsWriteOnlyTheirOwnState := by
  intro i s t h
  cases commandNext_of_exec h with
  | mapped hi => obtain rfl | rfl | rfl := hi <;> simp
  | _ => simp

/-- Settles O30: a next state has the old BMEM, or one with stores into a buffer region in range. -/
theorem storesStayInTheBufferRegion : Obligations.StoresStayInTheBufferRegion := by
  have hstores : ∀ {s : State} {m : Memory} {x : Nat}, StoresBuffer s m → Sparse.read m x ≠ Sparse.read s.bmem x →
      InRegion s.bufA s.bufN x ∧ s.bufInRange = true ∧ x < s.cfg.bmemSize := fun hm hx =>
    have hreg := by_contra fun hout => hx (hm.frame _ hout)
    ⟨hreg, hm.bufInRange, lt_bmemSize_of_bufInRange hm.bufInRange hreg⟩
  intro i s t x h hx
  cases commandNext_of_exec h with
  | mapped _ hm => exact hstores hm hx
  | shuffled _ hm => exact hstores hm hx
  | unshuffled _ hm _ => exact hstores hm hx
  | filled hm => exact hstores hm hx
  | _ => exact absurd rfl hx

end Sys2Proof.Machine
end

section
/-! Where a command stops. A loop stops at the first byte it needs that is unwritten, and only there; the statements of 40_command_control.md on the common checks and on completion, and of 60_exceptions.md on the fault of a command. -/

namespace Sys2Proof.Machine

/-! ### The common checks -/

/-- R67: the last byte of a region that has one decides. -/
theorem inRange_iff_forall (c : Config) (a n : Nat) : inRange c a n = true ↔ ∀ x, InRegion a n x → x < c.bmemSize := by
  simp only [inRange, Bool.or_eq_true, beq_iff_eq, decide_eq_true_eq]
  constructor
  · rintro h x ⟨hlo, hhi⟩
    omega
  · intro h
    obtain rfl | hn := Nat.eq_zero_or_pos n
    · exact .inl rfl
    · have := h (a + (n - 1)) (inRegion_add (by omega))
      omega

/-- R68: regions that share a byte share the larger of their first bytes. -/
theorem overlap_iff_exists (a1 n1 a2 n2 : Nat) :
    overlap a1 n1 a2 n2 = true ↔ ∃ x, InRegion a1 n1 x ∧ InRegion a2 n2 x := by
  simp only [overlap, Bool.and_eq_true, decide_eq_true_eq]
  constructor
  · rintro ⟨⟨⟨h1, h2⟩, h12⟩, h21⟩
    exact ⟨max a1 a2, ⟨by omega, by omega⟩, ⟨by omega, by omega⟩⟩
  · rintro ⟨x, ⟨h1, h1'⟩, ⟨h2, h2'⟩⟩
    omega

/-- Settles O25: each check's arithmetic against the bytes of the regions. -/
theorem regionChecksMeanWhatTheySay : Obligations.RegionChecksMeanWhatTheySay :=
  ⟨inRange_iff_forall, overlap_iff_exists⟩

/-! ### Completion -/

/-- Settles O26: both ways a command can end complete it, the one with a code, the other with the ERR = 0 of acceptance. -/
theorem everyCommandEndsInCompletion : Obligations.EveryCommandEndsInCompletion := by
  intro s t hrun hstep
  obtain ⟨-, -, herr, hcode⟩ := hrun
  obtain ⟨c, hc, rfl⟩ | ⟨u, ⟨hie, hue, huc⟩, rfl⟩ := commandEnd_of_engineStep hstep
  · exact ⟨rfl, rfl, rfl, .inr ⟨rfl, hc⟩⟩
  · exact ⟨rfl, rfl, hie, .inl ⟨hue.trans herr, huc.trans hcode⟩⟩

/-! ### Outcomes by their faults -/

/-- The outcome is no refusal, and if it is a fault then one that P allows. -/
def StopsOnlyFor (P : Fault → Prop) : Result → Prop
  | .next _ => True
  | .fault f => P f
  | .refused _ => False

namespace StopsOnlyFor
variable {P Q : Fault → Prop} {r : Result}

theorem mono (h : StopsOnlyFor P r) (hPQ : ∀ f, P f → Q f) : StopsOnlyFor Q r := by
  cases r with
  | next => trivial
  | fault f => exact hPQ f h
  | refused => exact h

theorem ne_refused (h : StopsOnlyFor P r) (q : Refusal) : r ≠ .refused q := by
  rintro rfl
  exact h

theorem of_fault {f : Fault} (h : StopsOnlyFor P r) (hr : r = .fault f) : P f := by
  subst hr
  exact h

theorem finishBmem {s : State} {r : Except Nat Memory} (h : ∀ x, r = .error x → P (.unwrittenRead x)) :
    StopsOnlyFor P (s.finishBmem r) := by
  cases r with
  | ok => trivial
  | error x => exact h x rfl

end StopsOnlyFor

/-- The fault names an unwritten byte of BMEM among those of R. -/
def UnwrittenIn (m : Memory) (R : Nat → Prop) (f : Fault) : Prop :=
  ∃ x, f = .unwrittenRead x ∧ Sparse.read m x = none ∧ R x

/-! ### The fault of each command -/

/-- R75: the byte is the buffer's, or a key byte with an index below both KEY_LEN and BUF_LEN. -/
theorem maskLoop_error {a n ka kl e : Nat} {m : Memory} (hkl : kl ≠ 0)
    (h : Sparse.storeLoop (maskByte a ka kl) n 0 m = .error e) :
    Sparse.read m e = none ∧ (InRegion a n e ∨ InRegion ka (min kl n) e) := by
  obtain ⟨i, m', hi, hbody, hnone⟩ := Sparse.storeLoop_error_unwritten h
  obtain ⟨he, hread⟩ := maskByte_eq_error hbody
  refine ⟨hnone e hread, ?_⟩
  obtain rfl | rfl := he
  · have hlt := Nat.mod_lt i (Nat.pos_of_ne_zero hkl)
    have hle := Nat.mod_le i kl
    exact .inr (inRegion_add (by omega))
  · exact .inl (inRegion_add hi)

theorem mapLoop_error {f : Byte → Byte} {a n e : Nat} {m : Memory} (h : Sparse.storeLoop (mapByte f a) n 0 m = .error e) :
    InRegion a n e ∧ Sparse.read m e = none := by
  obtain ⟨i, m', hi, hbody, hnone⟩ := Sparse.storeLoop_error_unwritten h
  obtain ⟨rfl, hread⟩ := mapByte_eq_error hbody
  exact ⟨inRegion_add hi, hnone _ hread⟩

/-- R94: ENT_FILL reads nothing. -/
theorem fillLoop_ne_error {a n e : Nat} {draw : Nat → Word} {m : Memory} :
    Sparse.storeLoop (fillByte a draw) n 0 m ≠ .error e := by
  obtain ⟨m', hm', -⟩ := fillLoop_ok a n draw m
  rw [hm']
  exact nofun

theorem applySwaps_error_inRegion {a n e : Nat} {seed : Word} {m : Memory} (hn : 0 < n)
    (h : Sparse.applySwaps a (swapSeq n seed) m = .error e) : InRegion a n e ∧ Sparse.read m e = none := by
  obtain ⟨hnone, p, hp, he⟩ := Sparse.applySwaps_error_unwritten h
  obtain ⟨h1, h2⟩ := swapSeq_lt hn hp
  obtain rfl | rfl := he
  · exact ⟨inRegion_add h1, hnone⟩
  · exact ⟨inRegion_add h2, hnone⟩

theorem execMask_stops (s : State) : StopsOnlyFor (fun f => MaskChecked s ∧
    UnwrittenIn s.bmem (fun x => InRegion s.bufA s.bufN x ∨ InRegion s.keyA (min s.keyN s.bufN) x) f) (execMask s) := by
  obtain ⟨he, -⟩ | ⟨-, -, he, -⟩ | ⟨-, -, -, -, -, he⟩ | ⟨hk, hn, hr, hkr, ho, he⟩ := execMask_cases s <;> rw [he]
  iterate 3 trivial
  exact .finishBmem fun x hx => ⟨⟨hk, hn, hr, hkr, ho⟩, x, rfl, maskLoop_error hk hx⟩

theorem mapBuffer_stops (f : Byte → Byte) (s : State) : StopsOnlyFor (fun e => (s.bufN ≠ 0 ∧ s.bufInRange = true) ∧
    UnwrittenIn s.bmem (InRegion s.bufA s.bufN) e) (mapBuffer f s) := by
  obtain ⟨he, -⟩ | ⟨-, -, he⟩ | ⟨hn, hr, he⟩ := mapBuffer_cases f s <;> rw [he]
  iterate 2 trivial
  exact .finishBmem fun x hx => ⟨⟨hn, hr⟩, x, rfl, (mapLoop_error hx).symm⟩

theorem execChecksum_stops (s : State) : StopsOnlyFor (fun e => (s.bufN ≠ 0 ∧ s.bufInRange = true) ∧
    UnwrittenIn s.bmem (InRegion s.bufA s.bufN) e) (execChecksum s) := by
  obtain ⟨he, -⟩ | ⟨-, -, he⟩ | ⟨-, -, w, -, he⟩ | ⟨hn, hr, x, hx, he⟩ := execChecksum_cases s <;> rw [he]
  iterate 3 trivial
  exact ⟨⟨hn, hr⟩, x, rfl, (sumLoop_error hx).symm⟩

theorem execShuffle_stops (s : State) : StopsOnlyFor (fun e => (2 ≤ s.bufN ∧ s.bufInRange = true) ∧
    UnwrittenIn s.bmem (InRegion s.bufA s.bufN) e) (execShuffle s) := by
  obtain ⟨he, -⟩ | ⟨-, -, he⟩ | ⟨hn, hr, he⟩ := execShuffle_cases s <;> rw [he]
  iterate 2 trivial
  exact .finishBmem fun x hx => ⟨⟨hn, hr⟩, x, rfl, (applySwaps_error_inRegion (by omega) hx).symm⟩

theorem execUnshuffle_stops (s : State) : StopsOnlyFor (fun e => (2 ≤ s.bufN ∧ s.bufInRange = true) ∧
    UnwrittenIn s.bmem (InRegion s.bufA s.bufN) e) (execUnshuffle s) := by
  obtain ⟨he, -⟩ | ⟨-, -, he⟩ | ⟨-, -, u, -, he⟩ | ⟨hn, hr, x, hx, he⟩ := execUnshuffle_cases s <;> rw [he]
  iterate 3 trivial
  exact ⟨⟨hn, hr⟩, x, rfl, (unshuffleArrays_error (by omega) hx).symm⟩

theorem execEntFill_stops (s : State) : StopsOnlyFor (fun _ => False) (execEntFill s) := by
  obtain ⟨he, -⟩ | ⟨-, -, he⟩ | ⟨-, -, he⟩ := execEntFill_cases s <;> rw [he]
  iterate 2 trivial
  exact .finishBmem fun x hx => fillLoop_ne_error hx

/-- A fault that command i may raise: an unwritten byte of a region that it reads, after all its checks (R100, R102). -/
def CommandFault (i : Instr) (s : State) (f : Fault) : Prop :=
  i ∈ [Instr.mask, .scramble, .deobfuscate, .checksum, .shuffle, .unshuffle] ∧ s.bufN ≠ 0 ∧ s.bufInRange = true ∧
  (i = .mask → s.keyN ≠ 0 ∧ s.keyInRange = true ∧ s.regionsOverlap = false) ∧
  (i = .shuffle ∨ i = .unshuffle → 2 ≤ s.bufN) ∧
  ∃ x, f = .unwrittenRead x ∧ Sparse.read s.bmem x = none ∧
    (InRegion s.bufA s.bufN x ∨ (i = .mask ∧ InRegion s.keyA (min s.keyN s.bufN) x))

section
variable {s : State} {i : Instr} {f : Fault}

/-- A command that reads the buffer only. -/
theorem commandFault_of_buffer (hi : i ∈ [Instr.scramble, .deobfuscate, .checksum, .shuffle, .unshuffle])
    (h2 : i = .shuffle ∨ i = .unshuffle → 2 ≤ s.bufN) (hn : s.bufN ≠ 0) (hr : s.bufInRange = true)
    (hf : UnwrittenIn s.bmem (InRegion s.bufA s.bufN) f) : CommandFault i s f := by
  obtain ⟨x, hx, hnone, hreg⟩ := hf
  exact ⟨List.mem_cons_of_mem _ hi, hn, hr, fun hmask => absurd hi (by simp [hmask]), h2, x, hx, hnone, .inl hreg⟩

theorem commandFault_of_mask (hs : MaskChecked s)
    (hf : UnwrittenIn s.bmem (fun x => InRegion s.bufA s.bufN x ∨ InRegion s.keyA (min s.keyN s.bufN) x) f) :
    CommandFault .mask s f := by
  obtain ⟨x, hx, hnone, hreg⟩ := hf
  exact ⟨by decide, hs.bufN_ne_zero, hs.bufInRange, fun _ => ⟨hs.keyN_ne_zero, hs.keyInRange, hs.no_overlap⟩,
    by simp, x, hx, hnone, hreg.imp_right fun hkey => ⟨rfl, hkey⟩⟩

end

theorem exec_stops (i : Instr) (s : State) : StopsOnlyFor (CommandFault i s) (exec i s) := by
  cases i with
  | nop | entDraw | entSeed => trivial
  | mask => exact (execMask_stops s).mono fun f hf => commandFault_of_mask hf.1 hf.2
  | scramble =>
    exact (mapBuffer_stops _ s).mono fun f ⟨⟨hn, hr⟩, hf⟩ => commandFault_of_buffer (by decide) (by simp) hn hr hf
  | deobfuscate =>
    exact (mapBuffer_stops _ s).mono fun f ⟨⟨hn, hr⟩, hf⟩ => commandFault_of_buffer (by decide) (by simp) hn hr hf
  | checksum =>
    exact (execChecksum_stops s).mono fun f ⟨⟨hn, hr⟩, hf⟩ => commandFault_of_buffer (by decide) (by simp) hn hr hf
  | shuffle =>
    exact (execShuffle_stops s).mono fun f ⟨⟨hn, hr⟩, hf⟩ =>
      commandFault_of_buffer (by decide) (fun _ => hn) (by omega) hr hf
  | unshuffle =>
    exact (execUnshuffle_stops s).mono fun f ⟨⟨hn, hr⟩, hf⟩ =>
      commandFault_of_buffer (by decide) (fun _ => hn) (by omega) hr hf
  | entFill => exact (execEntFill_stops s).mono fun _ => False.elim

/-- Settles O28: read off what each command can stop for. -/
theorem commandFaultsOnlyOnUnwrittenBytes : Obligations.CommandFaultsOnlyOnUnwrittenBytes := fun i s =>
  ⟨(exec_stops i s).ne_refused, fun _ => (exec_stops i s).of_fault⟩

/-! ### Loops that must stop -/

/-- A store loop stops at iteration k if the earlier iterations lead to arrays in which that one stops. -/
theorem Sparse.storeLoop_eq_error {α : Type} {body : Sparse α → Nat → Except Nat (Nat × α)} {P : Nat → Sparse α → Prop}
    {n i0 k e : Nat} {m : Sparse α} (hlo : i0 ≤ k) (hhi : k < i0 + n)
    (hs : ∀ i m, i < k → P i m → ∃ x v, body m i = .ok (x, v) ∧ P (i + 1) (write m x v))
    (he : ∀ m, P k m → body m k = .error e) (hm : P i0 m) : storeLoop body n i0 m = .error e := by
  induction n generalizing i0 m with
  | zero => omega
  | succ n ih =>
    obtain rfl | hlt := Nat.eq_or_lt_of_le hlo
    · simp only [storeLoop, he m hm]
    · obtain ⟨x, v, hb, hw⟩ := hs i0 m hlt hm
      simp only [storeLoop, hb]
      exact ih hlt (by omega) hw

section
variable {a n k : Nat} {m : Memory} (hk : k < n) (hw : Written m a k) (hnone : Sparse.read m (a + k) = none)
include hk hw hnone

theorem mapLoop_unwritten (f : Byte → Byte) : Sparse.storeLoop (mapByte f a) n 0 m = .error (a + k) := by
  refine Sparse.storeLoop_eq_error (P := fun i m' => ∀ j, i ≤ j → Sparse.read m' (a + j) = Sparse.read m (a + j))
    (Nat.zero_le k) (by omega) (fun i m' hi hm' => ?_) (fun m' hm' => ?_) fun _ _ => rfl
  · obtain ⟨b, hb⟩ := hw i hi
    refine ⟨a + i, f b, mapByte_eq_ok.2 ⟨b, (hm' i le_rfl).trans hb, rfl, rfl⟩, fun j hj => ?_⟩
    rw [Sparse.read_write_ne _ _ (by omega), hm' j (by omega)]
  · rw [mapByte, Sparse.fetch_error.2 ⟨rfl, (hm' k le_rfl).trans hnone⟩]

/-- The scatter is the first of UNSHUFFLE's loops that reads BMEM. -/
theorem unshuffleArrays_unwritten (seed : Word) (t : Sparse Nat) (u : Sparse Byte) :
    unshuffleArrays a n seed t u m = .error (a + k) := by
  obtain ⟨t1, t2, hid, hswaps, htrace, -⟩ := trace_ok (by omega : 0 < n) seed t
  have hscatter : Sparse.storeLoop (scatterByte a t2 m) n 0 u = .error (a + k) := by
    refine Sparse.storeLoop_eq_error (P := fun _ _ => True) (Nat.zero_le k) (by omega) (fun i u' hi _ => ?_)
      (fun u' _ => ?_) trivial
    · obtain ⟨b, hb⟩ := hw i hi
      exact ⟨_, b, scatterByte_eq_ok.2 ⟨htrace i (by omega), hb⟩, trivial⟩
    · rw [scatterByte, Sparse.fetch_ok.2 (htrace k hk), Sparse.fetch_error.2 ⟨rfl, hnone⟩]
  simp only [unshuffleArrays, hid, hswaps, hscatter]

end

/-- Swaps that finish have read both entries of every pair. -/
theorem Sparse.read_ne_none_of_applySwaps {α : Type} {base : Nat} {l : List (Nat × Nat)} {m m' : Sparse α}
    (h : applySwaps base l m = .ok m') : ∀ p ∈ l, read m (base + p.1) ≠ none ∧ read m (base + p.2) ≠ none := by
  induction l generalizing m with
  | nil => exact nofun
  | cons q l ih =>
    simp only [applySwaps] at h
    split at h
    · cases h
    rename_i m1 hswap
    intro p hp
    obtain rfl | hp := List.mem_cons.1 hp
    · obtain ⟨v, w, hv, hw, -⟩ := swap_eq_ok.1 hswap
      exact ⟨by simp [hv], by simp [hw]⟩
    · obtain ⟨h1, h2⟩ := ih h p hp
      exact ⟨mt (swap_read_eq_none hswap).2 h1, mt (swap_read_eq_none hswap).2 h2⟩

/-! ### Commands that must stop -/

section
variable {s : State} {k : Nat} (hr : s.bufInRange = true) (hk : k < s.bufN) (hw : Written s.bmem s.bufA k)
  (hnone : Sparse.read s.bmem (s.bufA + k) = none)
include hr hk hw hnone

theorem mapBuffer_unwritten (f : Byte → Byte) : mapBuffer f s = .fault (.unwrittenRead (s.bufA + k)) := by
  obtain ⟨-, hn⟩ | ⟨-, hout, -⟩ | ⟨-, -, he⟩ := mapBuffer_cases f s
  · omega
  · cases hr.symm.trans hout
  · rw [he, mapLoop_unwritten hk hw hnone f]
    rfl

theorem execChecksum_unwritten : execChecksum s = .fault (.unwrittenRead (s.bufA + k)) := by
  have hloop := sumLoop_unwritten (acc := 0) hk hw hnone
  obtain ⟨-, hn⟩ | ⟨-, hout, -⟩ | ⟨-, -, w, hok, -⟩ | ⟨-, -, x, hx, he⟩ := execChecksum_cases s
  · omega
  · cases hr.symm.trans hout
  · cases hloop.symm.trans hok
  · cases hloop.symm.trans hx
    exact he

theorem execUnshuffle_unwritten (hn : 2 ≤ s.bufN) : execUnshuffle s = .fault (.unwrittenRead (s.bufA + k)) := by
  have hloops := unshuffleArrays_unwritten hk hw hnone s.seed s.trace s.tmp
  obtain ⟨-, hshort⟩ | ⟨-, hout, -⟩ | ⟨-, -, u, hok, -⟩ | ⟨-, -, x, hx, he⟩ := execUnshuffle_cases s
  · omega
  · cases hr.symm.trans hout
  · cases hloops.symm.trans hok
  · cases hloops.symm.trans hx
    exact he

end

/-- A masking loop that finishes has read every byte of the buffer, and every key byte that it uses. -/
theorem execMask_unwritten {s : State} (hs : MaskChecked s)
    (h : (∃ k, k < s.bufN ∧ Sparse.read s.bmem (s.bufA + k) = none) ∨
      ∃ k, k < min s.keyN s.bufN ∧ Sparse.read s.bmem (s.keyA + k) = none) :
    ∃ x, execMask s = .fault (.unwrittenRead x) := by
  rw [execMask_of_checked hs]
  cases hloop : Sparse.storeLoop (maskByte s.bufA s.keyA s.keyN) s.bufN 0 s.bmem with
  | error x => exact ⟨x, rfl⟩
  | ok m =>
    have hbytes {i : Nat} (hi : i < s.bufN) := maskLoop_ok_bytes hs.keyN_ne_zero hs.disjoint hloop hi
    obtain ⟨k, hk, hnone⟩ | ⟨k, hk, hnone⟩ := h
    · obtain ⟨-, v, -, hv, -⟩ := hbytes hk
      cases hnone.symm.trans hv
    · obtain ⟨hkey, hbuf⟩ := Nat.lt_min.1 hk
      obtain ⟨b, -, hb, -, -⟩ := hbytes hbuf
      rw [Nat.mod_eq_of_lt hkey] at hb
      cases hnone.symm.trans hb

theorem execShuffle_unwritten {s : State} (hn : 2 ≤ s.bufN) (hr : s.bufInRange = true)
    (h : ∃ p ∈ swapSeq s.bufN s.seed, Sparse.read s.bmem (s.bufA + p.1) = none ∨ Sparse.read s.bmem (s.bufA + p.2) = none) :
    ∃ x, execShuffle s = .fault (.unwrittenRead x) := by
  obtain ⟨-, hshort⟩ | ⟨-, hout, -⟩ | ⟨-, -, he⟩ := execShuffle_cases s
  · omega
  · cases hr.symm.trans hout
  rw [he]
  cases hswaps : Sparse.applySwaps s.bufA (swapSeq s.bufN s.seed) s.bmem with
  | error x => exact ⟨x, rfl⟩
  | ok m =>
    obtain ⟨p, hp, hnone⟩ := h
    obtain ⟨h1, h2⟩ := Sparse.read_ne_none_of_applySwaps hswaps p hp
    exact absurd hnone (not_or.2 ⟨h1, h2⟩)

/-- Settles O42: the first four commands read the buffer in address order; MASK and SHUFFLE cannot finish without the byte. -/
theorem unwrittenBufferByteFaults : Obligations.UnwrittenBufferByteFaults := by
  refine ⟨fun s i k hi hr hk hw hnone => ?_, fun s hkn hn hr hkr ho h => execMask_unwritten ⟨hkn, hn, hr, hkr, ho⟩ h,
    fun s hn hr h => execShuffle_unwritten hn hr h⟩
  obtain rfl | rfl | rfl | ⟨rfl, hn⟩ := hi
  · exact mapBuffer_unwritten hr hk hw hnone _
  · exact mapBuffer_unwritten hr hk hw hnone _
  · exact execChecksum_unwritten hr hk hw hnone
  · exact execUnshuffle_unwritten hr hk hw hnone hn

end Sys2Proof.Machine
end

section
/-! What each command leaves where its checks pass, and where they do not; the statements of 41_byte_masker.md, 42_bit_scrambler.md, 43_checksum.md, 44_permutation.md and 45_entropy.md on one command. -/

namespace Sys2Proof.Machine

/-! ### When the checks fail -/

theorem bufInRange_eq_false {s : State} (hn : s.bufN ≠ 0) (h : s.cfg.bmemSize < s.bufA + s.bufN) : s.bufInRange = false := by
  rw [Bool.eq_false_iff, Ne, State.bufInRange_iff]
  omega

theorem keyInRange_eq_false {s : State} (hn : s.keyN ≠ 0) (h : s.cfg.bmemSize < s.keyA + s.keyN) : s.keyInRange = false := by
  rw [Bool.eq_false_iff, Ne, State.keyInRange_iff]
  omega

/-- R75: the checks on the buffer and on the key give the same error. -/
theorem execMask_of_not_inRange {s : State} (hk : s.keyN ≠ 0) (hn : s.bufN ≠ 0)
    (h : s.bufInRange = false ∨ s.keyInRange = false) : execMask s = .next (s.cmdError .range) := by
  obtain ⟨-, h0⟩ | ⟨-, -, he, -⟩ | ⟨-, -, hr, hkr, -⟩ | ⟨-, -, hr, hkr, -⟩ := execMask_cases s
  · exact absurd h0 (not_or.2 ⟨hk, hn⟩)
  · exact he
  all_goals simp [hr, hkr] at h

theorem execMask_of_overlap {s : State} (hk : s.keyN ≠ 0) (hn : s.bufN ≠ 0) (hr : s.bufInRange = true)
    (hkr : s.keyInRange = true) (ho : s.regionsOverlap = true) : execMask s = .next (s.cmdError .overlap) := by
  simp [execMask, hk, hn, hr, hkr, ho]

/-- Settles O33: MASK's tests in the order of its definition. -/
theorem maskEndsEarlyInTheStatedOrder : Obligations.MaskEndsEarlyInTheStatedOrder := by
  refine fun s => ⟨execMask_of_empty, fun hk hn hout => ?_, fun hk hn hr hkr ho => ?_⟩
  · exact execMask_of_not_inRange hk hn (hout.imp (bufInRange_eq_false hn) (keyInRange_eq_false hk))
  · exact execMask_of_overlap hk hn (s.bufInRange_iff.2 (.inr hr)) (s.keyInRange_iff.2 (.inr hkr))
      ((overlap_iff_exists ..).2 ho)

section
variable {s : State}

theorem mapBuffer_of_empty (f : Byte → Byte) (hn : s.bufN = 0) : mapBuffer f s = .next s.complete := if_pos hn

theorem execChecksum_of_empty (hn : s.bufN = 0) : execChecksum s = .next (s.withResult 0).complete := if_pos hn

theorem execEntFill_of_empty (hn : s.bufN = 0) : execEntFill s = .next s.complete := if_pos hn

theorem swapChecks_of_short (loops : Result) (hn : s.bufN < 2) : swapChecks s loops = .next s.complete := if_pos hn

variable (h : s.cfg.bmemSize < s.bufA + s.bufN)
include h

theorem mapBuffer_of_not_inRange (f : Byte → Byte) (hn : s.bufN ≠ 0) : mapBuffer f s = .next (s.cmdError .range) := by
  simp [mapBuffer, hn, bufInRange_eq_false hn h]

theorem execChecksum_of_not_inRange (hn : s.bufN ≠ 0) : execChecksum s = .next (s.cmdError .range) := by
  simp [execChecksum, hn, bufInRange_eq_false hn h]

theorem execEntFill_of_not_inRange (hn : s.bufN ≠ 0) : execEntFill s = .next (s.cmdError .range) := by
  simp [execEntFill, hn, bufInRange_eq_false hn h]

theorem swapChecks_of_not_inRange (loops : Result) (hn : 2 ≤ s.bufN) : swapChecks s loops = .next (s.cmdError .range) := by
  simp [swapChecks, Nat.not_lt.2 hn, bufInRange_eq_false (by omega) h]

end

/-- Settles O38: both commands map the buffer. -/
theorem scramblerEndsEarly : Obligations.ScramblerEndsEarly := by
  rintro s i (rfl | rfl)
  · exact ⟨mapBuffer_of_empty _, fun hn h => mapBuffer_of_not_inRange h _ hn⟩
  · exact ⟨mapBuffer_of_empty _, fun hn h => mapBuffer_of_not_inRange h _ hn⟩

/-- Settles O41: the empty buffer is looked at before the range. -/
theorem checksumEndsEarly : Obligations.ChecksumEndsEarly := fun _ =>
  ⟨execChecksum_of_empty, fun hn h => execChecksum_of_not_inRange h hn⟩

/-- Settles O48: both commands make the same checks. -/
theorem permutationEndsEarly : Obligations.PermutationEndsEarly := by
  rintro s i (rfl | rfl)
  · exact ⟨swapChecks_of_short _, fun hn h => swapChecks_of_not_inRange h _ hn⟩
  · have he : exec .unshuffle s = _ := execUnshuffle_eq_swapChecks s
    rw [he]
    exact ⟨swapChecks_of_short _, fun hn h => swapChecks_of_not_inRange h _ hn⟩

/-- Settles O53: both ends come before the draws are taken. -/
theorem entFillEndsEarly : Obligations.EntFillEndsEarly := fun _ =>
  ⟨execEntFill_of_empty, fun hn h => execEntFill_of_not_inRange h hn⟩

/-! ### MASK -/

/-- A loop over written regions lacks no byte, so it finishes. -/
theorem maskLoop_ok_of_written {a n ka kl : Nat} {m : Memory} (hkl : kl ≠ 0) (hw : Written m a n)
    (hkw : Written m ka (min kl n)) : ∃ m', Sparse.storeLoop (maskByte a ka kl) n 0 m = .ok m' := by
  cases hloop : Sparse.storeLoop (maskByte a ka kl) n 0 m with
  | ok m' => exact ⟨m', rfl⟩
  | error e =>
    obtain ⟨hnone, hreg⟩ := maskLoop_error hkl hloop
    have hread : ∃ b, Sparse.read m e = some b := by
      obtain hbuf | hkey := hreg
      · obtain ⟨i, hi, rfl⟩ := exists_add_of_inRegion hbuf
        exact hw i hi
      · obtain ⟨i, hi, rfl⟩ := exists_add_of_inRegion hkey
        exact hkw i hi
    obtain ⟨b, hb⟩ := hread
    cases hnone.symm.trans hb

/-- Settles O32: the loop finishes, and what a finished loop stored is known. -/
theorem maskXorsBufferWithCyclicKey : Obligations.MaskXorsBufferWithCyclicKey := by
  intro s hk hn hr hkr ho hw hkw
  have hs : MaskChecked s := ⟨hk, hn, hr, hkr, ho⟩
  obtain ⟨m, hm⟩ := maskLoop_ok_of_written hk hw hkw
  refine ⟨m, ?_, fun i b k hi hb hkey => ?_, fun x hx => maskLoop_frame hm hx⟩
  · rw [show exec .mask s = _ from execMask_of_checked hs, hm]
    rfl
  · obtain ⟨k', b', hk', hb', hstored⟩ := maskLoop_ok_bytes hk hs.disjoint hm hi
    cases hkey.symm.trans hk'
    cases hb.symm.trans hb'
    exact hstored

/-! ### SCRAMBLE and DEOBFUSCATE -/

theorem mapLoop_ok {f : Byte → Byte} {a n : Nat} {m : Memory} (hw : Written m a n) :
    ∃ m', Sparse.storeLoop (mapByte f a) n 0 m = .ok m' ∧
      (∀ i b, i < n → Sparse.read m (a + i) = some b → Sparse.read m' (a + i) = some (f b)) ∧
      (∀ x, ¬ InRegion a n x → Sparse.read m' x = Sparse.read m x) := by
  choose! val hval using hw
  obtain ⟨m', hm', hread, hframe⟩ := Sparse.storeLoop_region (body := mapByte f a) (val := fun i => f (val i)) m
    fun i mi hi hmi => mapByte_eq_ok.2
      ⟨val i, (hmi (a + i) fun hx => by have := hx.2; omega).trans (hval i hi), rfl, rfl⟩
  refine ⟨m', hm', fun i b hi hb => ?_, hframe⟩
  cases hb.symm.trans (hval i hi)
  exact hread i hi

theorem mapBuffer_of_written {s : State} (f : Byte → Byte) (hn : s.bufN ≠ 0) (hr : s.bufInRange = true)
    (hw : Written s.bmem s.bufA s.bufN) :
    ∃ m, mapBuffer f s = .next (s.withBmem m).complete ∧
      (∀ i b, i < s.bufN → Sparse.read s.bmem (s.bufA + i) = some b → Sparse.read m (s.bufA + i) = some (f b)) ∧
      (∀ x, ¬ InRegion s.bufA s.bufN x → Sparse.read m x = Sparse.read s.bmem x) := by
  obtain ⟨m, hm, hread, hframe⟩ := mapLoop_ok (f := f) hw
  refine ⟨m, ?_, hread, hframe⟩
  obtain ⟨-, h0⟩ | ⟨-, hout, -⟩ | ⟨-, -, he⟩ := mapBuffer_cases f s
  · exact absurd h0 hn
  · cases hr.symm.trans hout
  · rw [he, hm]
    rfl

/-- R77, in the words of R12's rotations. -/
theorem scrambleByte_eq_formula (f : ScrambleForm) (b : Byte) :
    scrambleByte f b = match f with
      | .rotate => (b.rotateLeft 3) ||| ((b.rotateRight 5) ^^^ 0xA5#8)
      | .shift => (b <<< 3) ||| ((b >>> 5) ^^^ 0xA5#8) := by
  cases f with
  | rotate => rw [scrambleByte, rotl8_eq_rotateLeft b (by decide), rotr8_eq_rotateRight b (by decide)]
  | shift => rfl

/-- R79, in the words of R12's rotations. -/
theorem deobfuscateByte_eq_formula (b : Byte) :
    deobfuscateByte b = ((b ^^^ 0xA5#8).rotateRight 3) ||| ((b ^^^ 0xA5#8).rotateLeft 5) := by
  rw [deobfuscateByte, rotr8_eq_rotateRight _ (by decide), rotl8_eq_rotateLeft _ (by decide)]

/-- Settles O36: SCRAMBLE maps the buffer by the configured form's function. -/
theorem scrambleReplacesBufferBytes : Obligations.ScrambleReplacesBufferBytes := by
  intro s hn hr hw
  obtain ⟨m, he, hread, hframe⟩ := mapBuffer_of_written (scrambleByte s.cfg.scrambleForm) hn hr hw
  exact ⟨m, he, fun i b hi hb => (hread i b hi hb).trans (congrArg some (scrambleByte_eq_formula _ b)), hframe⟩

/-- Settles O37: DEOBFUSCATE maps the buffer. -/
theorem deobfuscateReplacesBufferBytes : Obligations.DeobfuscateReplacesBufferBytes := by
  intro s hn hr hw
  obtain ⟨m, he, hread, hframe⟩ := mapBuffer_of_written deobfuscateByte hn hr hw
  exact ⟨m, he, fun i b hi hb => (hread i b hi hb).trans (congrArg some (deobfuscateByte_eq_formula b)), hframe⟩

theorem xor_or_self_right {w : Nat} (x m : BitVec w) : (x ^^^ m) ||| m = x ||| m := by
  refine BitVec.eq_of_getElem_eq fun i hi => ?_
  simp only [BitVec.getElem_or, BitVec.getElem_xor]
  cases x[i] <;> cases m[i] <;> rfl

/-- Where the bits m are 0, an XOR that inverts them sets them. -/
theorem xor_or_of_disjoint {w : Nat} {x m k : BitVec w} (hx : x &&& m = 0#w) (hk : k &&& m = 0#w) :
    x ^^^ (m ||| k) = m ||| (x ^^^ k) := by
  refine BitVec.eq_of_getElem_eq fun i hi => ?_
  have hxi : (x[i] && m[i]) = false := by rw [← BitVec.getElem_and, hx, BitVec.getElem_zero]
  have hki : (k[i] && m[i]) = false := by rw [← BitVec.getElem_and, hk, BitVec.getElem_zero]
  simp only [BitVec.getElem_or, BitVec.getElem_xor]
  cases hm : m[i] with
  | false => simp
  | true => simp_all

theorem scrambleByte_rotate_eq (b : Byte) : scrambleByte .rotate b = (b.rotateLeft 3) ||| 0xA5#8 := by
  rw [scrambleByte_eq, forcedOnes, xor_or_self_right]

/-- Only the bits 2:0 of b >>> 5 can be 1. -/
theorem ushiftRight_five_and (b : Byte) : (b >>> 5) &&& 0xA0#8 = 0#8 := by
  have hlow : ∀ i < 3, (0xA0#8).getLsbD i = false := by decide
  refine BitVec.eq_of_getLsbD_eq fun i _ => ?_
  rw [BitVec.getLsbD_and, BitVec.getLsbD_ushiftRight, BitVec.getLsbD_zero]
  by_cases h : i < 3
  · rw [hlow i h, Bool.and_false]
  · rw [BitVec.getLsbD_of_ge b (5 + i) (by omega), Bool.false_and]

theorem scrambleByte_shift_eq_shifts (b : Byte) :
    scrambleByte .shift b = (b <<< 3) ||| 0xA0#8 ||| ((b >>> 5) ^^^ 0x05#8) := by
  have hkey : (b >>> 5) ^^^ 0xA5#8 = 0xA0#8 ||| ((b >>> 5) ^^^ 0x05#8) :=
    xor_or_of_disjoint (m := 0xA0#8) (k := 0x05#8) (ushiftRight_five_and b) (by decide)
  rw [scrambleByte, hkey, BitVec.or_assoc]

theorem deobfuscateByte_eq_shifts (b : Byte) :
    deobfuscateByte b = ((b ^^^ 0xA5#8) >>> 3) ||| ((b ^^^ 0xA5#8) <<< 5) := by
  rw [deobfuscateByte_eq, ← rotr8_eq_rotateRight _ (by decide), rotr8]

/-- R79: undone by rotating back and XORing again. -/
theorem deobfuscateByte_bijective : Function.Bijective deobfuscateByte := by
  have hback : ∀ b, (deobfuscateByte b).rotateLeft 3 ^^^ 0xA5#8 = b := fun b => by
    rw [deobfuscateByte_eq, rotateLeft_rotateRight, BitVec.xor_assoc, BitVec.xor_self, BitVec.xor_zero]
  have hforth : ∀ b : Byte, deobfuscateByte (b.rotateLeft 3 ^^^ 0xA5#8) = b := fun b => by
    rw [deobfuscateByte_eq, BitVec.xor_assoc, BitVec.xor_self, BitVec.xor_zero, rotateRight_rotateLeft]
  exact Function.bijective_iff_has_inverse.2 ⟨fun b => b.rotateLeft 3 ^^^ 0xA5#8, hback, hforth⟩

/-- Settles O35: the closed forms, and DEOBFUSCATE's inverse. -/
theorem scramblerByteFunctions : Obligations.ScramblerByteFunctions :=
  ⟨scrambleByte_rotate_eq, scrambleByte_shift_eq_shifts, deobfuscateByte_eq, deobfuscateByte_eq_shifts,
    deobfuscateByte_bijective⟩

/-! ### CHECKSUM -/

/-- Settles O40: the buffer's sum is `byteSum` of its bytes. -/
theorem checksumSumsBufferBytes : Obligations.ChecksumSumsBufferBytes := fun _ _ hr hw => execChecksum_of_written hr hw

/-! ### SHUFFLE and UNSHUFFLE -/

theorem length_swapsFrom (top : Nat) (seed : Word) : (swapsFrom top seed).length = top := by
  induction top generalizing seed with
  | zero => rfl
  | succ i ih => exact congrArg (· + 1) (ih (lcgNext seed))

/-- R87: pair k, of the one with top index `top - k`. -/
theorem getElem?_swapsFrom {top k : Nat} (seed : Word) (hk : k < top) :
    (swapsFrom top seed)[k]? = some (top - k, (lcgNext^[k + 1] seed).toNat % (top - k + 1)) := by
  induction top generalizing seed k with
  | zero => omega
  | succ i ih =>
    cases k with
    | zero => rfl
    | succ k =>
      have hsub : i + 1 - (k + 1) = i - k := by omega
      rw [hsub, Function.iterate_succ_apply]
      exact ih (lcgNext seed) (by omega)

/-- Settles O45: the sequence is the pairs from the top index n - 1 down. -/
theorem swapSequenceFollowsTheLcg : Obligations.SwapSequenceFollowsTheLcg := by
  refine fun n seed hn => ⟨length_swapsFrom (n - 1) seed, fun k hk => ⟨?_, ?_⟩⟩
  · have hpos : n - 1 - k + 1 = n - k := by omega
    rw [← hpos]
    exact getElem?_swapsFrom seed hk
  · have := Nat.mod_lt (lcgNext^[k + 1] seed).toNat (by omega : 0 < n - k)
    omega

/-- Settles O46: the swaps lack no byte, so they finish, and what finished swaps leave is known. -/
theorem shuffleAppliesTheSwapSequence : Obligations.ShuffleAppliesTheSwapSequence := by
  intro s hn hr hw
  have hl : ∀ p ∈ swapSeq s.bufN s.seed, p.1 < s.bufN ∧ p.2 < s.bufN := fun p hp => swapSeq_lt (by omega) hp
  obtain ⟨m, hm⟩ := Sparse.applySwaps_ok hl hw
  refine ⟨m, ?_, fun x _ => Sparse.read_applySwaps hm x, fun x hx => Sparse.applySwaps_read_outside hl hm hx⟩
  obtain ⟨-, hshort⟩ | ⟨-, hout, -⟩ | ⟨-, -, he⟩ := execShuffle_cases s
  · omega
  · cases hr.symm.trans hout
  · rw [show exec .shuffle s = _ from he, hm, lcgAfter_eq_iterate]
    rfl

/-- Settles O47: the arrays of a written buffer, with LCG at its last advance. -/
theorem unshuffleScattersThroughTheTrace : Obligations.UnshuffleScattersThroughTheTrace := by
  intro s hn hr hw
  obtain ⟨r, hloops, htrace, hbmem, htmp, hpast, hframe⟩ :=
    unshuffleArrays_ok (by omega : 0 < s.bufN) s.seed s.trace s.tmp hw
  refine ⟨r.bmem, r.trace, r.tmp, ?_, hbmem, htrace, htmp, hpast, hframe⟩
  obtain ⟨-, hshort⟩ | ⟨-, hout, -⟩ | ⟨-, -, u, hu, he⟩ | ⟨-, -, x, hx, -⟩ := execUnshuffle_cases s
  · omega
  · cases hr.symm.trans hout
  · cases hloops.symm.trans hu
    rw [show exec .unshuffle s = _ from he, lcgAfter_eq_iterate]
    rfl
  · cases hloops.symm.trans hx

/-! ### ENT_FILL -/

/-- R9: past the end of a test source a draw is the free value of its own index. -/
theorem State.weakDraw_of_free {s : State} {k : Nat} (h : s.weakIn.length ≤ k) :
    s.weakDraw k = Config.weakDraw (s.weakCount + k) := by
  rw [State.weakDraw, List.getElem?_eq_none h, Option.getD_none]

/-- Settles O52: the loop always finishes; each draw has its own index. -/
theorem entFillWritesLowBytesOfDraws : Obligations.EntFillWritesLowBytesOfDraws := by
  refine ⟨fun s hn hr => ?_, fun _ _ _ => State.weakDraw_of_supplied, fun _ _ => State.weakDraw_of_free⟩
  obtain ⟨m, hm, hread, hframe⟩ := fillLoop_ok s.bufA s.bufN s.weakDraw s.bmem
  refine ⟨m, ?_, hread, hframe⟩
  obtain ⟨-, h0⟩ | ⟨-, hout, -⟩ | ⟨-, -, he⟩ := execEntFill_cases s
  · exact absurd h0 hn
  · cases hr.symm.trans hout
  · have hfill : entFillWith s.weakDraw (s.takeWeak s.bufN) = (s.takeWeak s.bufN).finishBmem (.ok m) := congrArg _ hm
    exact he.trans hfill

end Sys2Proof.Machine
end

section
/-! The host's accesses that are performed: reads and writes of BMEM (20_memory.md), register reads and the plain register writes (10_state.md). -/

namespace Sys2Proof.Machine

/-! ### Accesses to the memory port -/

section
variable {s : State} {a : Nat} {width : Width} (h0 : a % width.bytes = 0) (hle : a + width.bytes ≤ s.cfg.bmemSize)
include h0 hle

/-- R40: alignment and range alone decide. -/
theorem Access.legal_bmem (k : AccessKind) : Access.legal s.cfg ⟨.bmem, a, width, k⟩ = true := by
  simp [Access.legal, h0, hle]

theorem perform_read_bmem_of_ok {w : Word} (hm : memRead s.bmem a width.bytes = .ok w) :
    s.perform ⟨.bmem, a, width, .read⟩ = .next (s.answer w) := by
  simp [State.perform, Access.legal_bmem h0 hle, State.performBmem, hm]

theorem perform_read_bmem_of_error {x : Nat} (hm : memRead s.bmem a width.bytes = .error x) :
    s.perform ⟨.bmem, a, width, .read⟩ = .fault (.unwrittenRead x) := by
  simp [State.perform, Access.legal_bmem h0 hle, State.performBmem, hm]

theorem perform_write_bmem (w : Word) :
    s.perform ⟨.bmem, a, width, .write w⟩ = .next (s.withBmem (memWrite s.bmem a width.bytes w)) := by
  simp [State.perform, Access.legal_bmem h0 hle, State.performBmem]

end

/-! ### Reading bytes -/

theorem setWidth_append_byte {k : Nat} (v : BitVec k) (b : Byte) :
    (v ++ b).setWidth 32 = (v.setWidth 32 <<< 8) ||| b.setWidth 32 := by
  refine BitVec.eq_of_getLsbD_eq fun i hi => ?_
  simp only [BitVec.getLsbD_setWidth, BitVec.getLsbD_append, BitVec.getLsbD_or, BitVec.getLsbD_shiftLeft, hi, decide_true,
    Bool.true_and]
  by_cases h : i < 8
  · simp [h]
  · have hsub : i - 8 < 32 := by omega
    have hhigh : b.getLsbD i = false := BitVec.getLsbD_of_ge b i (by omega)
    simp [h, hsub, hhigh]

section
variable {m : Memory} {a n : Nat} {b : Byte}

theorem memRead_succ {w : Word} (hb : Sparse.read m a = some b) (hw : memRead m (a + 1) n = .ok w) :
    memRead m a (n + 1) = .ok ((w <<< 8) ||| b.setWidth 32) := by
  simp [memRead, Sparse.fetch_ok.2 hb, hw]

theorem memRead_one (hb : Sparse.read m a = some b) : memRead m a 1 = .ok (b.setWidth 32) := by
  rw [memRead_succ hb (w := 0#32) rfl, BitVec.zero_shiftLeft, BitVec.zero_or]

/-- R37: the byte at the lowest address is the least significant. -/
theorem memRead_append {k : Nat} {v : BitVec k} (hb : Sparse.read m a = some b)
    (hv : memRead m (a + 1) n = .ok (v.setWidth 32)) : memRead m a (n + 1) = .ok ((v ++ b).setWidth 32) := by
  rw [memRead_succ hb hv, setWidth_append_byte]

/-- The read goes through the bytes by rising address (log 8). -/
theorem memRead_unwritten {k : Nat} (hk : k < n) (hw : Written m a k) (hnone : Sparse.read m (a + k) = none) :
    memRead m a n = .error (a + k) := by
  induction n generalizing a k with
  | zero => omega
  | succ n ih =>
    cases k with
    | zero =>
      rw [Nat.add_zero] at hnone
      simp [memRead, Sparse.fetch_error.2 ⟨rfl, hnone⟩]
    | succ k =>
      obtain ⟨b, hb⟩ := hw 0 (by omega)
      rw [Nat.add_zero] at hb
      have hshift : a + 1 + k = a + (k + 1) := by omega
      have hrest : memRead m (a + 1) n = .error (a + 1 + k) := by
        refine ih (by omega) (fun i hi => ?_) (hshift ▸ hnone)
        have hi' : a + 1 + i = a + (i + 1) := by omega
        rw [hi']
        exact hw (i + 1) (by omega)
      simp [memRead, Sparse.fetch_ok.2 hb, hrest, hshift]

end

/-- Settles O17: one more byte below the read ones, for each width. -/
theorem hostMemoryReadIsLittleEndian : Obligations.HostMemoryReadIsLittleEndian := by
  intro s a b0 b1 b2 b3 h0
  refine ⟨fun hle => ?_, fun h1 hmod hle => ?_, fun h1 h2 h3 hmod hle => ?_⟩
  · exact perform_read_bmem_of_ok (width := .w8) (Nat.mod_one a) hle (memRead_one h0)
  · exact perform_read_bmem_of_ok (width := .w16) hmod hle (memRead_append h0 (memRead_one h1))
  · have hread := memRead_append h0 (memRead_append h1 (memRead_append h2 (memRead_one h3)))
    rw [BitVec.setWidth_eq] at hread
    exact perform_read_bmem_of_ok (width := .w32) hmod hle hread

/-- Settles O19: the read stops at the first unwritten byte. -/
theorem hostReadOfUnwrittenByteFaults : Obligations.HostReadOfUnwrittenByteFaults :=
  fun _ _ _ _ h0 hle hk hw hnone => perform_read_bmem_of_error h0 hle (memRead_unwritten hk hw hnone)

/-! ### Writing bytes -/

theorem extractLsb'_ushiftRight_byte (w : Word) (k : Nat) : (w >>> 8).extractLsb' (8 * k) 8 = w.extractLsb' (8 * (k + 1)) 8 := by
  refine BitVec.eq_of_getLsbD_eq fun i _ => ?_
  have hpos : 8 + (8 * k + i) = 8 * (k + 1) + i := by omega
  rw [BitVec.getLsbD_extractLsb', BitVec.getLsbD_extractLsb', BitVec.getLsbD_ushiftRight, hpos]

theorem read_memWrite_inside (m : Memory) {a n k : Nat} (w : Word) (hk : k < n) :
    Sparse.read (memWrite m a n w) (a + k) = some (w.extractLsb' (8 * k) 8) := by
  induction n generalizing m a k w with
  | zero => omega
  | succ n ih =>
    rw [memWrite]
    cases k with
    | zero => rw [read_memWrite_outside _ _ _ _ fun h => by have := h.1; omega, Nat.add_zero, Sparse.read_write_self]
    | succ k =>
      have hshift : a + (k + 1) = a + 1 + k := by omega
      rw [hshift, ih _ _ (by omega), extractLsb'_ushiftRight_byte]

/-- Settles O18: the write is performed, and the bytes it leaves are those inside and outside its region. -/
theorem hostMemoryWriteStoresItsBytes : Obligations.HostMemoryWriteStoresItsBytes :=
  fun s a width w h0 hle => ⟨memWrite s.bmem a width.bytes w, perform_write_bmem h0 hle w,
    fun _ => read_memWrite_inside s.bmem w, fun _ => read_memWrite_outside s.bmem a width.bytes w⟩

/-! ### Register reads -/

/-- Settles O4: an offset is a named register's or none's. -/
theorem registerReadReturnsMapValue : Obligations.RegisterReadReturnsMapValue := by
  intro s off h4 hle
  rw [perform_read_reg s h4 hle, State.answer]
  congr 3
  cases hr : regAt off with
  | some r =>
    obtain rfl := offset_of_regAt hr
    rw [regRead_offset]
    cases r <;> rfl
  | none =>
    have hne : ∀ x, (regAt x).isSome = true → off ≠ x := by
      rintro x hx rfl
      simp [hr] at hx
    simp only [regRead, hr, hne 0x000 rfl, hne 0x004 rfl, hne 0x008 rfl, hne 0x00C rfl, hne 0x010 rfl, hne 0x014 rfl,
      hne 0x018 rfl, hne 0x01C rfl, hne 0x020 rfl, hne 0x024 rfl, if_false]

/-- A bit string as a number: its upper part above its lower one. -/
theorem toNat_append_eq_add {k n : Nat} (v : BitVec k) (w : BitVec n) : (v ++ w).toNat = v.toNat * 2 ^ n + w.toNat := by
  rw [BitVec.toNat_append, ← Nat.shiftLeft_add_eq_or_of_lt w.isLt, Nat.shiftLeft_eq]

/-- R19: the fields of the word by their weights. -/
theorem State.statusWord_toNat (s : State) : s.statusWord.toNat =
    s.busy.toNat + 2 * s.done.toNat + 4 * s.err.toNat + 256 * s.errCode.bits.toNat := by
  simp only [State.statusWord, toNat_append_eq_add, BitVec.toNat_ofBool, BitVec.toNat_ofNat, Nat.zero_mod]
  omega

/-- Settles O5: the fields' weights, and each code's number (R98). -/
theorem statusWordHasItsFields : Obligations.StatusWordHasItsFields := by
  intro s
  rw [State.statusWord_toNat]
  cases s.errCode <;> rfl

/-! ### Register writes -/

/-- Settles O8: the write effects of the operand registers at their offsets. -/
theorem operandRegistersStoreWholeWord : Obligations.OperandRegistersStoreWholeWord := fun s w =>
  ⟨perform_write_offset s .bufAddr w, perform_write_offset s .bufLen w, perform_write_offset s .keyAddr w,
    perform_write_offset s .keyLen w, perform_write_offset s .seed w⟩

/-- Settles O10: RESULT and ID have no write effect. -/
theorem resultAndIdIgnoreHostWrites : Obligations.ResultAndIdIgnoreHostWrites := fun s w =>
  ⟨perform_write_offset s .result w, perform_write_offset s .id w⟩

end Sys2Proof.Machine
end

section
/-! Steps: what a step does in each situation of the ports, and how many steps a running command needs at most; the statements of 20_memory.md on ordering, of 40_command_control.md on the engine's step, and of 70_reset_and_hazards.md on reset and timing. -/

namespace Sys2Proof.Machine

/-! ### Reset -/

/-- Settles O1: the fields of `State.reset`, and the words read from them. -/
theorem resetStateHoldsResetValues : Obligations.ResetStateHoldsResetValues :=
  ⟨by decide, by decide, rfl, rfl, rfl, rfl, rfl, rfl, rfl, rfl, rfl, Sparse.read_nil, rfl, regRead_offset _ .id⟩

/-- R111: with no command running, no byte of BMEM is kept. -/
theorem bmemAfterReset_of_idle {s : State} (hb : s.busy = false) : s.bmemAfterReset = [] := by
  rw [State.bmemAfterReset, hb]
  rfl

/-- Settles O2: the release of an idle block, which uses up no head start. -/
theorem releaseWhileIdleResetsEverything : Obligations.ReleaseWhileIdleResetsEverything := by
  intro s hr hb
  rw [step_of_rst hr, State.release, State.turnAfterReset_of_idle hb, bmemAfterReset_of_idle hb]
  rfl

/-! ### Sample words -/

/-- Settles O21: by evaluation of the decoder. -/
theorem sampleWordsDecode : Obligations.SampleWordsDecode := by
  unfold Obligations.SampleWordsDecode
  decide

/-! ### Who moves -/

theorem dequeue_eq {s : State} {a : Access} {rest : List Access} (hp : s.pending = a :: rest) :
    s.dequeue = { s with pending := rest } := by
  rw [State.dequeue, hp]
  rfl

/-- R109 -/
theorem step_of_idle_nil {s : State} (hr : s.rst = false) (hb : s.busy = false) (hp : s.pending = []) : step s = .next s := by
  simp [step, blockStep, hr, agentStep, hp, hb]

section
variable {s : State} {a : Access} {rest : List Access} (hr : s.rst = false) (hb : s.busy = true)
include hr

/-- R47: a held access leaves the engine alone to move. -/
theorem step_of_held (hp : s.pending = a :: rest) (hh : a.held s = true) : step s = engineMove s := by
  simp [step, blockStep, hr, agentStep, hp, hh]

include hb

theorem step_of_running_nil (hp : s.pending = []) : step s = engineMove s := by
  simp [step, blockStep, hr, agentStep, hp, hb]

/-- Log 4: the engine moves when it is its turn, whatever waits. -/
theorem step_of_engine_turn (hn : s.nextAgent = .engine) : step s = engineMove s := by
  obtain he | ⟨-, -, -, -, hlt, -⟩ := step_of_busy hr hb
  · exact he
  · have hle := State.nextAgent_eq_engine.1 hn
    omega

end

/-- Settles O15: the idle block's step on a queue that is not empty. -/
theorem oldestAccessIsPerformed : Obligations.OldestAccessIsPerformed := fun _ _ _ hr hb hp =>
  (step_of_idle_cons hr hb hp).trans (congrArg (State.perform · _) (dequeue_eq hp))

/-- Settles O20: the idle block's step on an empty queue. -/
theorem idleBlockKeepsItsState : Obligations.IdleBlockKeepsItsState := fun _ => step_of_idle_nil

/-- R19: BUSY is bit 0. -/
theorem State.statusWord_getLsbD_zero (s : State) : s.statusWord.getLsbD 0 = s.busy := by
  rw [State.statusWord, BitVec.getLsbD_append]
  exact BitVec.getLsbD_ofBool s.busy 0

/-- Settles O14: a STATUS read is not held, so the host's move performs it. -/
theorem statusReadIsNotHeld : Obligations.StatusReadIsNotHeld := by
  intro s rest hr hb hp hn
  have hh : Access.held s ⟨.reg, 0x004, .w32, .read⟩ = false := by
    simp [Access.held, Access.isStatusRead]
  refine ⟨?_, s.statusWord_getLsbD_zero.trans hb⟩
  rw [step_of_host_move hr hb hp hh hn, dequeue_eq (s := s.hostTurn) hp, perform_read_reg _ (by decide) (by decide)]
  rfl

/-- Settles O23: in each of the three situations the engine moves, and an engine's move is exec of the decoded command. -/
theorem stepRunsDecodedCommand : Obligations.StepRunsDecodedCommand := by
  intro s i hr hb hdec hturn
  have hstep : step s = engineMove s := by
    obtain hp | ⟨a, rest, hp, hh⟩ | hn := hturn
    · exact step_of_running_nil hr hb hp
    · exact step_of_held hr hp hh
    · exact step_of_engine_turn hr hb hn
  have hexec : engineStep s.engineTurn = exec i s.engineTurn := by
    simp only [engineStep, State.engineTurn_curCmd, hdec]
  exact hstep.trans hexec

/-! ### The engine's step and the ports -/

theorem CommandEnd.busy_eq_false {s t : State} (h : CommandEnd s t) : t.busy = false := by
  obtain ⟨c, -, rfl⟩ | ⟨u, -, rfl⟩ := h <;> rfl

/-- R65: the engine does not touch the host's ports. -/
theorem ports_of_engineStep {s t : State} (h : engineStep s = .next t) :
    t.pending = s.pending ∧ t.replies = s.replies ∧ t.busy = false := by
  have hbusy := (commandEnd_of_engineStep h).busy_eq_false
  obtain ⟨i, -, he⟩ | ⟨-, -, he⟩ := engineStep_cases s <;> rw [he] at h
  · obtain ⟨-, -, -, -, hp, hrep, -⟩ := commandsWriteOnlyTheirOwnState i s t h
    exact ⟨hp, hrep, hbusy⟩
  · cases h
    exact ⟨rfl, rfl, rfl⟩

/-- Settles O13: the access is held, so the engine moves, and it leaves the ports alone. -/
theorem heldAccessWaitsForCompletion : Obligations.HeldAccessWaitsForCompletion := by
  intro s a rest hr hb hp hl hns
  have hh : a.held s = true :=
    Access.held_eq_true.2 ⟨hb, hl, Bool.eq_false_iff.2 (mt Access.isStatusRead_eq_true.1 hns)⟩
  have hstep : step s = engineStep s.engineTurn := step_of_held hr hp hh
  refine ⟨hstep, fun t ht => ?_⟩
  obtain ⟨hpend, hrep, hbusy⟩ := ports_of_engineStep (hstep.symm.trans ht)
  exact ⟨hpend.trans hp, hrep, hbusy⟩

/-! ### One step of a running command -/

theorem completedOrFault_engineStep (s : State) : CompletedOrFault (engineStep s) := by
  cases h : engineStep s with
  | next t => exact (commandEnd_of_engineStep h).busy_eq_false
  | fault f => trivial
  | refused q =>
    obtain ⟨i, -, he⟩ | ⟨-, -, he⟩ := engineStep_cases s <;> rw [he] at h
    · exact (exec_stops i s).ne_refused q h
    · cases h

/-- With nothing waiting, only the engine can move. -/
theorem step_running_nil_completes {s : State} (hr : s.rst = false) (hb : s.busy = true) (hp : s.pending = []) :
    CompletedOrFault (step s) := by
  rw [step_of_running_nil hr hb hp]
  exact completedOrFault_engineStep s.engineTurn

/-- The host has made one move of its head start; the command in s still runs in t. -/
structure HostMoved (s t : State) : Prop where
  rst : t.rst = false
  busy : t.busy = true
  hostMoves : t.hostMoves = s.hostMoves + 1
  headStart : t.headStart = s.headStart
  lt_headStart : s.hostMoves < s.headStart

/-- One move less is left of the head start. -/
theorem HostMoved.movesLeft {s t : State} (h : HostMoved s t) :
    t.headStart - t.hostMoves + 1 = s.headStart - s.hostMoves := by
  have := h.lt_headStart
  rw [h.headStart, h.hostMoves]
  omega

/-- No register write and no reply is an access. -/
theorem pending_of_perform {s t : State} {a : Access} (h : s.perform a = .next t) : t.pending = s.pending := by
  obtain ⟨-, he⟩ | ⟨-, -, -, he⟩ | ⟨w, -, -, -, he⟩ | ⟨w, -, -, -, -, he⟩ | ⟨x, -, -, -, -, he⟩ | ⟨w, -, -, -, he⟩ :=
    perform_cases s a <;> cases he.symm.trans h
  · rfl
  · obtain hw | hw | hw | hw | hw | hw | hw | hw | hw := regWrite_cases s a.addr w <;> rw [hw] <;> rfl
  · rfl
  · rfl

theorem perform_ne_refused (s : State) (a : Access) (q : Refusal) : s.perform a ≠ .refused q := by
  obtain ⟨-, he⟩ | ⟨-, -, -, he⟩ | ⟨w, -, -, -, he⟩ | ⟨w, -, -, -, -, he⟩ | ⟨x, -, -, -, -, he⟩ | ⟨w, -, -, -, he⟩ :=
    perform_cases s a <;> rw [he] <;> exact nofun

/-- While a command runs, a step completes it or faults, or the oldest waiting access was a move of the host. -/
theorem step_running {s : State} (hr : s.rst = false) (hb : s.busy = true) :
    CompletedOrFault (step s) ∨ ∃ a t, step s = .next t ∧ s.pending = a :: t.pending ∧ HostMoved s t := by
  obtain he | ⟨a, rest, hp, hh, hlt, he⟩ := step_of_busy hr hb <;> rw [he]
  · exact .inl (completedOrFault_engineStep s.engineTurn)
  · cases ht : s.hostTurn.dequeue.perform a with
    | next t =>
      obtain ⟨htb, htr, hmoves, hstart⟩ := perform_of_busy ht hh hb
      have hrest : t.pending = rest := by
        rw [pending_of_perform ht, State.dequeue_pending, State.hostTurn_pending, hp]
        rfl
      exact .inr ⟨a, t, rfl, hrest ▸ hp, htr.trans hr, htb, hmoves, hstart, hlt⟩
    | fault f => exact .inl trivial
    | refused q => exact absurd ht (perform_ne_refused _ a q)

/-! ### Runs of the block -/

/-- A run that goes one step and ends there. -/
theorem runSteps_one (s : State) : runSteps 1 s = step s := by
  cases h : step s with
  | next t => exact runSteps_succ_of_next 0 h
  | fault f => exact runSteps_succ_of_fault 0 h
  | refused q => exact runSteps_succ_of_refused 0 h

/-- Each step that does not complete the command takes one access off the queue. -/
theorem runSteps_completes {s : State} (hr : s.rst = false) (hb : s.busy = true) :
    ∃ k, k ≤ s.pending.length + 1 ∧ CompletedOrFault (runSteps k s) := by
  induction hq : s.pending generalizing s with
  | nil =>
    obtain hdone | ⟨a, t, -, hp, -⟩ := step_running hr hb
    · exact ⟨1, by simp, runSteps_one s ▸ hdone⟩
    · cases hq.symm.trans hp
  | cons a rest ih =>
    obtain hdone | ⟨a', t, ht, hp, hmoved⟩ := step_running hr hb
    · exact ⟨1, by simp, runSteps_one s ▸ hdone⟩
    · cases hq.symm.trans hp
      obtain ⟨k, hk, hdone⟩ := ih hmoved.rst hmoved.busy rfl
      exact ⟨k + 1, Nat.succ_le_succ hk, runSteps_succ_of_next k ht ▸ hdone⟩

/-- The state with the host's new accesses behind the waiting ones. -/
def State.issueAll (s : State) (l : List Access) : State := { s with pending := s.pending ++ l }

theorem runIssuing_one (issued : Nat → List Access) (s : State) :
    runIssuing issued 1 s = step (s.issueAll (issued 0)) := by
  unfold runIssuing State.issueAll
  cases step { s with pending := s.pending ++ issued 0 } <;> rfl

theorem runIssuing_succ_of_next {issued : Nat → List Access} {s t : State} (k : Nat)
    (h : step (s.issueAll (issued 0)) = .next t) :
    runIssuing issued (k + 1) s = runIssuing (fun n => issued (n + 1)) k t := by
  unfold State.issueAll at h
  rw [runIssuing, h]

/-- Each step that does not complete the command takes one move off the head start, whatever the host issues. -/
theorem runIssuing_completes {s : State} (issued : Nat → List Access) (hr : s.rst = false) (hb : s.busy = true) :
    ∃ k, k ≤ s.headStart - s.hostMoves + 1 ∧ CompletedOrFault (runIssuing issued k s) := by
  induction hd : s.headStart - s.hostMoves generalizing s issued with
  | zero =>
    obtain hdone | ⟨-, t, -, -, hmoved⟩ := step_running (s := s.issueAll (issued 0)) hr hb
    · exact ⟨1, le_rfl, runIssuing_one issued s ▸ hdone⟩
    · have hlt : s.hostMoves < s.headStart := hmoved.lt_headStart
      omega
  | succ d ih =>
    obtain hdone | ⟨-, t, ht, -, hmoved⟩ := step_running (s := s.issueAll (issued 0)) hr hb
    · exact ⟨1, by omega, runIssuing_one issued s ▸ hdone⟩
    · have hleft : t.headStart - t.hostMoves + 1 = s.headStart - s.hostMoves := hmoved.movesLeft
      obtain ⟨k, hk, hdone⟩ := ih (fun n => issued (n + 1)) hmoved.rst hmoved.busy (by omega)
      exact ⟨k + 1, by omega, runIssuing_succ_of_next k ht ▸ hdone⟩

/-! ### Runs of host and block -/

namespace System

theorem blockMoves_of_next {y : System} {b : State} (h : Machine.step y.block = .next b) :
    ∃ g, y.blockMoves = .next ⟨g, b⟩ := by
  unfold blockMoves
  rw [h]
  dsimp only
  split
  · exact ⟨_, rfl⟩
  · exact ⟨_, rfl⟩

theorem blockMoves_completes {y : System} (h : CompletedOrFault (Machine.step y.block)) :
    SystemCompletedOrFault y.blockMoves := by
  cases hs : Machine.step y.block with
  | next b =>
    obtain ⟨g, hg⟩ := blockMoves_of_next hs
    rw [hs] at h
    rw [hg]
    exact h
  | fault f =>
    rw [blockMoves, hs]
    trivial
  | refused q =>
    rw [hs] at h
    exact h.elim

/-- A line that the host completes while a command runs and its head start lasts. -/
theorem hostMoves_running {y : System} (hr : y.block.rst = false) (hb : y.block.busy = true) (hp : y.block.pending = [])
    (hlt : y.block.hostMoves < y.block.headStart) :
    SystemCompletedOrFault y.hostMoves ∨ ∃ z, y.hostMoves = .next z ∧ HostMoved y.block z.block := by
  have hturn : HostMoved y.block y.block.hostTurn := ⟨hr, hb, rfl, rfl, hlt⟩
  simp only [hostMoves, hb, if_true]
  cases y.host.prog[y.host.pc]? with
  | none => exact .inl (blockMoves_completes (step_running_nil_completes hr hb hp))
  | some l =>
    cases l with
    | label => exact .inr ⟨_, rfl, hturn⟩
    | branch => exact .inr ⟨_, rfl, hturn⟩
    | access a => exact .inr ⟨_, rfl, hturn.rst, hturn.busy, rfl, rfl, hlt⟩

/-- While a command runs, a step of host and block completes it or faults, or is a move of the host. -/
theorem step_running {y : System} (hr : y.block.rst = false) (hb : y.block.busy = true) :
    SystemCompletedOrFault y.step ∨ ∃ z, y.step = .next z ∧ HostMoved y.block z.block := by
  cases hp : y.block.pending with
  | cons a rest =>
    have hstep : y.step = y.blockMoves := by simp [step, hp]
    rw [hstep]
    obtain hdone | ⟨-, t, ht, -, hmoved⟩ := Machine.step_running hr hb
    · exact .inl (blockMoves_completes hdone)
    · obtain ⟨g, hg⟩ := blockMoves_of_next ht
      exact .inr ⟨_, hg, hmoved⟩
  | nil =>
    cases hn : y.block.nextAgent with
    | engine =>
      have hstep : y.step = y.blockMoves := by simp [step, hp, hb, hn]
      rw [hstep]
      exact .inl (blockMoves_completes (step_running_nil_completes hr hb hp))
    | host =>
      have hstep : y.step = y.hostMoves := by simp [step, hr, hp, hn]
      rw [hstep]
      exact hostMoves_running hr hb hp (State.nextAgent_eq_host.1 hn)

end System

theorem runSystem_one (y : System) : runSystem 1 y = y.step := by
  unfold runSystem
  cases y.step <;> rfl

theorem runSystem_succ_of_next {y z : System} (k : Nat) (h : y.step = .next z) : runSystem (k + 1) y = runSystem k z := by
  rw [runSystem, h]

/-- Each step that does not complete the command takes one move off the head start, whatever the host's program. -/
theorem runSystem_completes {y : System} (hr : y.block.rst = false) (hb : y.block.busy = true) :
    ∃ k, k ≤ y.block.headStart - y.block.hostMoves + 1 ∧ SystemCompletedOrFault (runSystem k y) := by
  induction hd : y.block.headStart - y.block.hostMoves generalizing y with
  | zero =>
    obtain hdone | ⟨z, -, hmoved⟩ := y.step_running hr hb
    · exact ⟨1, le_rfl, runSystem_one y ▸ hdone⟩
    · have hlt := hmoved.lt_headStart
      omega
  | succ d ih =>
    obtain hdone | ⟨z, hz, hmoved⟩ := y.step_running hr hb
    · exact ⟨1, by omega, runSystem_one y ▸ hdone⟩
    · have hleft := hmoved.movesLeft
      obtain ⟨k, hk, hdone⟩ := ih hmoved.rst hmoved.busy (by omega)
      exact ⟨k + 1, by omega, runSystem_succ_of_next k hz ▸ hdone⟩

/-- Settles O58: by induction on the waiting accesses, and twice on what is left of the host's head start. -/
theorem runningCommandCompletes : Obligations.RunningCommandCompletes :=
  ⟨fun _ => runSteps_completes, fun _ issued => runIssuing_completes issued, fun _ => runSystem_completes⟩

end Sys2Proof.Machine
end

section
/-! The host program language (30_encoding.md rules R59 to R61): which names and numbers the assembler knows, and what it makes of each statement. -/

namespace Sys2Proof.Machine

/-! ### Names -/

theorem lookup_eq_none_of_keys {β : Type} {l : List (String × β)} {keys : List String} {m : String}
    (hkeys : ∀ p ∈ l, p.1 ∈ keys) (hm : m ∉ keys) : l.lookup m = none := by
  refine List.lookup_eq_none_iff.2 fun p hp => ?_
  rw [bne_iff_ne]
  rintro rfl
  exact hm (hkeys p hp)

theorem mnemonicInstr_of_not_mem {m : String} (h : m ∉ specMnemonics.map Prod.fst) : mnemonicInstr m = none :=
  lookup_eq_none_of_keys (by decide) h

theorem registerNamed_of_not_mem {r : String} (h : r ∉ specRegisters.map Prod.fst) : registerNamed r = none :=
  lookup_eq_none_of_keys (by decide) h

theorem mnemonicInstr_of_mem : ∀ p ∈ specMnemonics, (mnemonicInstr p.1).map encode = some p.2 := by decide

theorem registerNamed_of_mem : ∀ p ∈ specRegisters, (registerNamed p.1).map Reg.offset = some p.2 := by decide

namespace Source

/-! ### Numbers -/

theorem number_of_lt {v : Nat} (h : v < 2 ^ 32) : number v = .ok (BitVec.ofNat 32 v) := if_pos h

theorem number_of_ge {v : Nat} (h : 2 ^ 32 ≤ v) : number v = .error .valueTooWide := if_neg (Nat.not_lt.2 h)

theorem number_cases (v : Nat) :
    (v < 2 ^ 32 ∧ number v = .ok (BitVec.ofNat 32 v)) ∨ (2 ^ 32 ≤ v ∧ number v = .error .valueTooWide) :=
  (Nat.lt_or_ge v (2 ^ 32)).imp (fun h => ⟨h, number_of_lt h⟩) fun h => ⟨h, number_of_ge h⟩

/-! ### Statements with a name -/

theorem cmdLine_of_mem {p : String × Word} (hp : p ∈ specMnemonics) :
    cmdLine p.1 = .ok [.access ⟨.reg, 0x000, .w32, .write p.2⟩ none] := by
  obtain ⟨i, hi, hw⟩ := Option.map_eq_some_iff.1 (mnemonicInstr_of_mem p hp)
  rw [cmdLine, hi, ← hw]
  rfl

theorem cmdLine_of_not_mem {m : String} (h : m ∉ specMnemonics.map Prod.fst) : cmdLine m = .error .unknownMnemonic := by
  rw [cmdLine, mnemonicInstr_of_not_mem h]

theorem wrLine_of_mem {p : String × Nat} {v : Nat} (hp : p ∈ specRegisters) (hv : v < 2 ^ 32) :
    wrLine p.1 v = .ok [.access ⟨.reg, p.2, .w32, .write (BitVec.ofNat 32 v)⟩ none] := by
  obtain ⟨r, hr, hoff⟩ := Option.map_eq_some_iff.1 (registerNamed_of_mem p hp)
  rw [wrLine, hr, number_of_lt hv, ← hoff]
  rfl

theorem wrLine_of_ge {name : String} {v : Nat} (hname : name ∈ specRegisters.map Prod.fst) (hv : 2 ^ 32 ≤ v) :
    wrLine name v = .error .valueTooWide := by
  obtain ⟨p, hp, rfl⟩ := List.mem_map.1 hname
  obtain ⟨r, hr, -⟩ := Option.map_eq_some_iff.1 (registerNamed_of_mem p hp)
  rw [wrLine, hr, number_of_ge hv]
  rfl

theorem wrLine_of_not_mem {name : String} (v : Nat) (h : name ∉ specRegisters.map Prod.fst) :
    wrLine name v = .error .unknownRegister := by
  rw [wrLine, registerNamed_of_not_mem h]

theorem lines_rd_of_mem (l : Nat) (t : Fin 10) {p : String × Nat} (hp : p ∈ specRegisters) :
    lines l (.rd t p.1) = .ok [.access ⟨.reg, p.2, .w32, .read⟩ (some t)] := by
  obtain ⟨r, hr, hoff⟩ := Option.map_eq_some_iff.1 (registerNamed_of_mem p hp)
  rw [lines, hr, ← hoff]
  rfl

theorem lines_rd_of_not_mem (l : Nat) (t : Fin 10) {name : String} (h : name ∉ specRegisters.map Prod.fst) :
    lines l (.rd t name) = .error .unknownRegister := by
  rw [lines, registerNamed_of_not_mem h]

/-! ### Statements with one number -/

section
variable (l : Nat) (width : Width) (t : Fin 10) (k : Nat) {v : Nat}

section
variable (h : v < 2 ^ 32)
include h

theorem lines_cmdRaw_of_lt : lines l (.cmdRaw v) = .ok [.access ⟨.reg, 0x000, .w32, .write (BitVec.ofNat 32 v)⟩ none] := by
  rw [lines, number_of_lt h]
  rfl

theorem lines_load_of_lt : lines l (.load width t v) = .ok [.access ⟨.bmem, v, width, .read⟩ (some t)] := by
  rw [lines, number_of_lt h]
  rfl

theorem lines_bnz_of_lt : lines l (.bnz t v k) = .ok [.branch true t (BitVec.ofNat 32 v) k] := by
  rw [lines, number_of_lt h]
  rfl

theorem lines_bz_of_lt : lines l (.bz t v k) = .ok [.branch false t (BitVec.ofNat 32 v) k] := by
  rw [lines, number_of_lt h]
  rfl

end

section
variable (h : 2 ^ 32 ≤ v)
include h

theorem map_number_of_ge (f : Word → List Line) : (number v).map f = .error .valueTooWide := by
  rw [number_of_ge h]
  rfl

theorem lines_cmdRaw_of_ge : lines l (.cmdRaw v) = .error .valueTooWide := map_number_of_ge h _

theorem lines_load_of_ge : lines l (.load width t v) = .error .valueTooWide := map_number_of_ge h _

theorem lines_bnz_of_ge : lines l (.bnz t v k) = .error .valueTooWide := map_number_of_ge h _

theorem lines_bz_of_ge : lines l (.bz t v k) = .error .valueTooWide := map_number_of_ge h _

end
end

/-! ### Two pieces -/

section
variable (e : AsmError) (x : Except AsmError (List Line))

theorem both_error_left : both (.error e) x = .error e := by
  cases x <;> rfl

theorem both_error_right : ∃ e', both x (.error e) = .error e' := by
  cases x <;> exact ⟨_, rfl⟩

theorem both_nil : both x (.ok []) = x := by
  cases x with
  | ok ls => rw [both, List.append_nil]
  | error => rfl

end

/-- Both names are known, so the value that does not fit is what is refused. -/
theorem both_wrLine_of_ge {n1 n2 : String} {v1 v2 : Nat} (h1 : n1 ∈ specRegisters.map Prod.fst)
    (h2 : n2 ∈ specRegisters.map Prod.fst) (h : 2 ^ 32 ≤ v1 ∨ 2 ^ 32 ≤ v2) :
    both (wrLine n1 v1) (wrLine n2 v2) = .error .valueTooWide := by
  obtain hv1 | hv1 := Nat.lt_or_ge v1 (2 ^ 32)
  · obtain ⟨p, hp, rfl⟩ := List.mem_map.1 h1
    rw [wrLine_of_mem hp hv1, wrLine_of_ge h2 (h.resolve_left (Nat.not_le.2 hv1))]
    rfl
  · rw [wrLine_of_ge h1 hv1, both_error_left]

/-! ### Stores -/

section
variable {width : Width} {a v : Nat}

theorem storeLine_of_ge (h : 2 ^ 32 ≤ a ∨ 2 ^ 32 ≤ v) : storeLine width a v = .error .valueTooWide := by
  obtain ⟨ha, hna⟩ | ⟨-, hna⟩ := number_cases a
  · rw [storeLine, hna, number_of_ge (h.resolve_left (Nat.not_le.2 ha))]
  · rw [storeLine, hna]

variable (ha : a < 2 ^ 32) (hv : v < 2 ^ 32)
include ha hv

theorem storeLine_of_lt : storeLine width a v =
    if a % width.bytes = 0 then .ok [.access ⟨.bmem, a, width, .write (BitVec.ofNat 32 v)⟩ none]
    else .error .misalignedStore := by
  rw [storeLine, number_of_lt ha, number_of_lt hv]

theorem storeLine_of_aligned (h : a % width.bytes = 0) :
    storeLine width a v = .ok [.access ⟨.bmem, a, width, .write (BitVec.ofNat 32 v)⟩ none] :=
  (storeLine_of_lt ha hv).trans (if_pos h)

theorem storeLine_of_misaligned (h : a % width.bytes ≠ 0) : storeLine width a v = .error .misalignedStore :=
  (storeLine_of_lt ha hv).trans (if_neg h)

end

/-! ### Bytes -/

theorem storeLine_byte {a b : Nat} (ha : a < 2 ^ 32) (hb : b < 2 ^ 32) :
    storeLine .w8 a b = .ok [.access ⟨.bmem, a, .w8, .write (BitVec.ofNat 32 b)⟩ none] :=
  storeLine_of_aligned ha hb (Nat.mod_one a)

/-- The line of a byte at its place in a bytes statement from address a on. -/
def byteLine (a : Nat) (p : Nat × Nat) : Line := .access ⟨.bmem, a + p.2, .w8, .write (BitVec.ofNat 32 p.1)⟩ none

theorem byteLine_succ (a : Nat) (p : Nat × Nat) : byteLine (a + 1) p = byteLine a (Prod.map id (· + 1) p) := by
  have hplace : a + 1 + p.2 = a + (p.2 + 1) := by omega
  simp only [byteLine, Prod.map, id, hplace]

theorem bytesLines_of_lt {a : Nat} {bs : List Nat} (h : ∀ k b, bs[k]? = some b → a + k < 2 ^ 32 ∧ b < 2 ^ 32) :
    bytesLines a bs = .ok (bs.zipIdx.map (byteLine a)) := by
  induction bs generalizing a with
  | nil => rfl
  | cons b bs ih =>
    obtain ⟨ha, hb⟩ := h 0 b rfl
    have hrest : bytesLines (a + 1) bs = .ok (bs.zipIdx.map (byteLine (a + 1))) := ih fun k c hc => by
      obtain ⟨hk, hc⟩ := h (k + 1) c hc
      exact ⟨by omega, hc⟩
    rw [bytesLines, storeLine_byte (a := a) ha hb, hrest, List.zipIdx_cons', List.map_cons, List.map_map,
      List.map_congr_left fun p _ => byteLine_succ a p]
    rfl

/-- The bytes before the first one that does not fit are taken. -/
theorem bytesLines_of_ge {a : Nat} {bs : List Nat} (h : ∃ k b, bs[k]? = some b ∧ (2 ^ 32 ≤ a + k ∨ 2 ^ 32 ≤ b)) :
    bytesLines a bs = .error .valueTooWide := by
  induction bs generalizing a with
  | nil => simp at h
  | cons b bs ih =>
    rw [bytesLines]
    by_cases hfit : a < 2 ^ 32 ∧ b < 2 ^ 32
    · obtain ⟨ha, hb⟩ := hfit
      obtain ⟨k, c, hc, hout⟩ := h
      cases k with
      | zero =>
        cases hc
        omega
      | succ k =>
        rw [storeLine_byte ha hb, ih ⟨k, c, hc, by omega⟩]
        rfl
    · rw [storeLine_of_ge (by omega), both_error_left]

end Source

/-! ### Programs -/

theorem assembleFrom_of_error {ps : List Source} {p : Source} (hp : p ∈ ps) (h : ∀ l, ∃ e, Source.lines l p = .error e)
    (fresh : Nat) : ∃ e, assembleFrom fresh ps = .error e := by
  induction ps generalizing fresh with
  | nil => cases hp
  | cons q ps ih =>
    rw [assembleFrom]
    obtain rfl | hp := List.mem_cons.1 hp
    · obtain ⟨e, he⟩ := h fresh
      exact ⟨e, by rw [he, Source.both_error_left]⟩
    · obtain ⟨e, he⟩ := ih hp (fresh + 1)
      rw [he]
      exact Source.both_error_right e _

theorem assembleFrom_of_ok {ps : List Source} (h : ∀ p ∈ ps, ∀ l, ∃ ls, Source.lines l p = .ok ls) (fresh : Nat) :
    ∃ ls, assembleFrom fresh ps = .ok ls := by
  induction ps generalizing fresh with
  | nil => exact ⟨[], rfl⟩
  | cons q ps ih =>
    obtain ⟨xs, hxs⟩ := h q (List.mem_cons_self ..) fresh
    obtain ⟨ys, hys⟩ := ih (fun p hp => h p (List.mem_cons_of_mem _ hp)) (fresh + 1)
    exact ⟨xs ++ ys, by rw [assembleFrom, hxs, hys]; rfl⟩

/-! ### The statements -/

/-- Settles O59: each expansion is the definition's; OBFUSCATE has SCRAMBLE's word, and a last byte has no line after its own. -/
theorem pseudoStatementsExpand : Obligations.PseudoStatementsExpand := by
  refine ⟨fun _ => ?_, fun _ => rfl, fun _ => rfl, fun _ _ => rfl, fun _ _ _ => rfl, fun _ _ _ => rfl,
    fun _ a b => Source.both_nil (Source.storeLine .w8 a b), fun _ _ _ _ => rfl⟩
  exact (Source.cmdLine_of_mem (p := ("OBFUSCATE", 0x02)) (by decide)).trans
    (Source.cmdLine_of_mem (p := ("SCRAMBLE", 0x02)) (by decide)).symm

/-- Settles O60: each clause is what the assembler makes of one kind of statement. -/
theorem assemblerRefusesWhatItMust : Obligations.AssemblerRefusesWhatItMust := by
  refine ⟨fun _ _ => Source.cmdLine_of_mem, fun _ m hm => ⟨Source.cmdLine_of_not_mem hm, ?_⟩,
    fun l t _ _ hp hv => ⟨Source.wrLine_of_mem hp hv, Source.lines_rd_of_mem l t hp⟩,
    fun l t _ v hr => ⟨Source.wrLine_of_not_mem v hr, Source.lines_rd_of_not_mem l t hr⟩,
    fun _ _ _ => Source.wrLine_of_ge, fun l v hv => Source.lines_cmdRaw_of_ge l hv, fun _ _ _ _ => Source.storeLine_of_ge,
    fun _ _ _ h => ⟨Source.both_wrLine_of_ge (by decide) (by decide) h, Source.both_wrLine_of_ge (by decide) (by decide) h⟩,
    fun _ _ _ => Source.bytesLines_of_ge, fun l width t _ => Source.lines_load_of_ge l width t,
    fun l t _ k hm => ⟨Source.lines_bnz_of_ge l t k hm, Source.lines_bz_of_ge l t k hm⟩,
    fun _ _ _ => Source.storeLine_of_misaligned (width := .w16),
    fun _ _ _ => Source.storeLine_of_misaligned (width := .w32),
    fun _ _ _ _ => Source.storeLine_of_aligned, fun l _ => Source.lines_cmdRaw_of_lt l,
    fun l width t _ => Source.lines_load_of_lt l width t,
    fun l t _ k hm => ⟨Source.lines_bnz_of_lt l t k hm, Source.lines_bz_of_lt l t k hm⟩,
    fun _ _ _ => Source.bytesLines_of_lt, fun _ _ => rfl, fun _ _ hp h => assembleFrom_of_error hp h _,
    fun _ h => assembleFrom_of_ok h _⟩
  exact (congrArg (Source.both · _) (Source.cmdLine_of_not_mem hm)).trans (Source.both_error_left _ _)

end Sys2Proof.Machine
end
